-- ==== Sys2Proof/Word.lean ====
section
/-! DEFINITION. The word types of the KL200 frame codec (spec/00_scope.md R14): bytes and 16-bit values, all unsigned. -/

namespace Sys2Proof

/-- A byte: 8 bits, bit 7 the most significant (R14). -/
abbrev Byte := BitVec 8

/-- A 16-bit value: a command id, an address or a distance (R14, R61). -/
abbrev Word16 := BitVec 16

end Sys2Proof
end

