-- ==== Sys2Proof/Config.lean ====
section
/-! DEFINITION. What an implementation fixes, and the values the spec leaves free (spec/00_scope.md R9 to R12). -/

namespace Sys2Proof

/-- `P_CMD_TABLE` (R12): each command's 16-bit id. -/
structure CmdTable where
  restoreFactory    : Word16
  changeAddress     : Word16
  changeBaud        : Word16
  setUploadMode     : Word16
  setUploadInterval : Word16
  setLedMode        : Word16
  setRelayMode      : Word16
  setCommMode       : Word16
  readDistance      : Word16
deriving DecidableEq, Repr

namespace Config

/-- `LEN_TAG` (R9): the constant at byte 2. -/
def lenTag : Byte := 0x09#8

/-- `ADDR_HI` (R9): the broadcast address, high byte. -/
def addrHi : Byte := 0xFF#8

/-- `ADDR_LO` (R9): the broadcast address, low byte. -/
def addrLo : Byte := 0xFF#8

/-- `READ_CMD` (R9). -/
def readCmd : Word16 := 0x6233#16

/-- The default of `P_CMD_TABLE` (R12, R66). DESIGN CHOICE, log 9: the table in force is the field
`cmdTable` of State, so a claim over all states holds for every table. -/
def defaultCmdTable : CmdTable where
  restoreFactory    := 0x6239#16
  changeAddress     := 0x6232#16
  changeBaud        := 0x6230#16
  setUploadMode     := 0x6234#16
  setUploadInterval := 0x6235#16
  setLedMode        := 0x6237#16
  setRelayMode      := 0x6238#16
  setCommMode       := 0x6231#16
  readDistance      := readCmd

/-- `P_HDR_CHECK` (R10): the default, `false`. The value in force is the field `hdr` of State (log 8). -/
def hdrCheck : Bool := false

/-- The draws of `P_DV_RESET` (R11, R230): any 16-bit value at each RESET. A free value (log 5). -/
opaque dvReset : Nat → Word16

/-- The draws of `P_DR_RESET` (R11, R230): any 16-bit value, independent of `dvReset`. A free value (log 5). -/
opaque drReset : Nat → Word16

/-- What `BUF[k]` holds at power-on (R230, U2): any value. A free value (log 6). -/
opaque bufReset : Nat → Byte

/-- What `EXP` holds at power-on (R230, U2): any value. A free value (log 6). -/
opaque expReset : Word16

/-- What waits in `LINK_IN` at launch (R232): any sequence of bytes. A free value (log 7). -/
opaque linkInReset : List Byte

end Config
end Sys2Proof
end

