-- ==== Sys2Proof/Machine/Operands.lean ====
section
/-! DEFINITION. Field assembly and frame building: big-endian halves (spec/20_memory.md R43), the XOR-fold
CHK (spec/41_checksum.md R100) and the frame encoder ENC (spec/42_frame_build.md R110). -/

namespace Sys2Proof.Machine

/-- The high byte `w[15:8]` (R14). -/
def hiByte (w : Word16) : Byte := w.extractLsb' 8 8

/-- The low byte `w[7:0]` (R14). -/
def loByte (w : Word16) : Byte := w.extractLsb' 0 8

/-- `h ++ l`: a big-endian 16-bit field, the high byte first (R14, R43). -/
def be16 (h l : Byte) : Word16 := h ++ l

/-- CHK, the XOR-fold of a byte sequence (R100). -/
def chk (bs : List Byte) : Byte := bs.foldl (· ^^^ ·) 0x00#8

/-- Bytes 0..7 of a frame the FC sends (R60, R110): id, length tag, broadcast address, parameters. -/
def frameBody (cmd : Word16) (p0 p1 p2 : Byte) : List Byte :=
  [hiByte cmd, loByte cmd, Config.lenTag, Config.addrHi, Config.addrLo, p0, p1, p2]

/-- ENC, the frame encoder (R110): the body, then its checksum at byte 8. -/
def enc (cmd : Word16) (p0 p1 p2 : Byte) : List Byte :=
  frameBody cmd p0 p1 p2 ++ [chk (frameBody cmd p0 p1 p2)]

/-- Sub-format `P0` (R64): no parameter. -/
def encP0 (cmd : Word16) : List Byte := enc cmd 0x00#8 0x00#8 0x00#8

/-- Sub-format `P1` (R64): one byte in param0. -/
def encP1 (cmd : Word16) (v : Byte) : List Byte := enc cmd v 0x00#8 0x00#8

/-- Sub-format `P2` (R64): two bytes in param0 and param1, the high byte first. -/
def encP2 (cmd a : Word16) : List Byte := enc cmd (hiByte a) (loByte a) 0x00#8

end Sys2Proof.Machine
end

