-- ==== Sys2Proof/Machine/Flags.lean ====
section
/-! DEFINITION. The status codes of `ST` (spec/10_state.md R27), the validator F_DECODE
(spec/43_receive.md R121) and the range guards of the commands (spec/45_command_frames.md R172 to R179). -/

namespace Sys2Proof.Machine

/-- `ST` = 0: no window has completed since reset (R27). -/
def stNone : BitVec 3 := 0#3

/-- `ST` = 1: the last window's frame was accepted (R27). -/
def stOk : BitVec 3 := 1#3

/-- `ST` = 2: the last window closed by timeout (R27). -/
def stShortRead : BitVec 3 := 2#3

/-- `ST` = 3: wrong command-id echo, or, with `HDR` = 1, wrong header bytes (R27). -/
def stMalformed : BitVec 3 := 3#3

/-- `ST` = 4: byte 8 is not the XOR of bytes 0..7 (R27). -/
def stChecksumMismatch : BitVec 3 := 4#3

/-- The header check of R121: passed when `HDR` = 0, else bytes 2..4 must be 09 FF FF. -/
def headerOk (hdr : Bool) (g2 g3 g4 : Byte) : Bool :=
  !hdr || (g2 == Config.lenTag && g3 == Config.addrHi && g4 == Config.addrLo)

/-- F_DECODE (R121) on the bytes read, `n` being their number: the checks in the spec's order, the first
that fails giving the code (R122). A distance, or the `ST` code of the error. -/
def fDecode (g : List Byte) (expected : Word16) (hdr : Bool) : Except (BitVec 3) Word16 :=
  match g with
  | [g0, g1, g2, g3, g4, g5, g6, g7, g8] =>
    if g0 ≠ hiByte expected then .error stMalformed
    else if g1 ≠ loByte expected then .error stMalformed
    else if headerOk hdr g2 g3 g4 = false then .error stMalformed
    else if g8 ≠ chk [g0, g1, g2, g3, g4, g5, g6, g7] then .error stChecksumMismatch
    else .ok (be16 g5 g6)
  | _ => .error stShortRead

/-- CMD_CHANGE_ADDRESS: `addr <= 0xFFFE` (R173). -/
def addressGuard (addr : Word16) : Bool := addr ≤ 0xFFFE#16

/-- CMD_CHANGE_BAUD: `code <= 9` (R174). -/
def baudGuard (code : Byte) : Bool := code ≤ 9#8

/-- CMD_SET_UPLOAD_INTERVAL: `1 <= n <= 100` (R176). -/
def intervalGuard (n : Byte) : Bool := 1#8 ≤ n && n ≤ 100#8

/-- CMD_SET_LED_MODE: `mode <= 3` (R177). -/
def ledGuard (mode : Byte) : Bool := mode ≤ 3#8

/-- CMD_SET_RELAY_MODE: `mode <= 1` (R178). -/
def relayGuard (mode : Byte) : Bool := mode ≤ 1#8

/-- CMD_SET_COMM_MODE: `mode <= 1` (R179). -/
def commGuard (mode : Byte) : Bool := mode ≤ 1#8

/-- The upload-mode byte of a SET_UPLOAD_MODE frame: 0x00 or 0x01 (R175; opcode_table.json, field v). -/
def uploadModeGuard (v : Byte) : Bool := v ≤ 1#8

/-- The param0 byte of a Boolean argument: 0x01 or 0x00 (R175). -/
def boolByte (b : Bool) : Byte := if b then 0x01#8 else 0x00#8

/-- The param0 byte of RestoreFactory: 0xFE hard, 0xFD soft (R172). -/
def restoreByte (hard : Bool) : Byte := if hard then 0xFE#8 else 0xFD#8

end Sys2Proof.Machine
end

