-- ==== Sys2Proof/Syntax.lean ====
section
/-! DEFINITION. The instructions: every row of spec/opcode_table.json, one constructor each
(spec/30_encoding.md R60 to R71). -/

namespace Sys2Proof

/-- Which way a frame travels; frames are told apart by direction first (R67). -/
inductive Direction where
  | hostToDevice
  | deviceToHost
deriving DecidableEq, Repr

/-- How an instruction is written: in the byte notation of host operations and line events (R70, R71),
or as a 9-byte frame on the line (R60). -/
inductive Format where
  | opCode
  | frame (d : Direction)
deriving DecidableEq, Repr

/-- One constructor per row of the opcode table, with the row's operand bits. A host-to-device frame row
keeps its checksum byte `c` as an operand, so that no bit of the word is lost (log 11). -/
inductive Instr where
  -- frame72, host to device (R64, R66)
  | restoreFactoryHard
  | restoreFactorySoft
  | changeAddress (a : Word16) (c : Byte)
  | changeBaud (v c : Byte)
  | setUploadMode (v c : Byte)
  | setUploadInterval (v c : Byte)
  | setLedMode (v c : Byte)
  | setRelayMode (v c : Byte)
  | setCommMode (v c : Byte)
  | readDistanceReq
  -- frame72, device to host (R65)
  | distanceReport (len addrHi addrLo : Byte) (d : Word16) (p2 c : Byte)
  | distanceReportHdr (d : Word16) (p2 c : Byte)
  -- host operations (R70)
  | reset
  | txFrame (cmd : Word16) (p0 p1 p2 : Byte)
  | rxArm (expected : Word16)
  | readDistance
  | avail
  | getDistance
  | getLast
  | getStatus
  | cmdRestoreFactory (hard : Bool)
  | cmdChangeAddress (addr : Word16)
  | cmdChangeBaud (code : Byte)
  | cmdSetUploadMode (auto : Bool)
  | cmdSetUploadInterval (n : Byte)
  | cmdSetLedMode (mode : Byte)
  | cmdSetRelayMode (mode : Byte)
  | cmdSetCommMode (mode : Byte)
  -- line events (R71)
  | rxByte (b : Byte)
  | rxTimeout
deriving DecidableEq, Repr

/-- The format an instruction is written in (the `format` and `direction` of its opcode-table row). -/
def Instr.format : Instr → Format
  | .restoreFactoryHard | .restoreFactorySoft | .changeAddress _ _ | .changeBaud _ _
  | .setUploadMode _ _ | .setUploadInterval _ _ | .setLedMode _ _ | .setRelayMode _ _
  | .setCommMode _ _ | .readDistanceReq => .frame .hostToDevice
  | .distanceReport _ _ _ _ _ _ | .distanceReportHdr _ _ _ => .frame .deviceToHost
  | .reset | .txFrame _ _ _ _ | .rxArm _ | .readDistance | .avail | .getDistance | .getLast | .getStatus
  | .cmdRestoreFactory _ | .cmdChangeAddress _ | .cmdChangeBaud _ | .cmdSetUploadMode _
  | .cmdSetUploadInterval _ | .cmdSetLedMode _ | .cmdSetRelayMode _ | .cmdSetCommMode _
  | .rxByte _ | .rxTimeout => .opCode

/-- The host operations of R70 that a program or a call issues: every operation but the line events (R71). -/
def Instr.isHostOp : Instr → Bool
  | .reset | .txFrame _ _ _ _ | .rxArm _ | .readDistance | .avail | .getDistance | .getLast | .getStatus
  | .cmdRestoreFactory _ | .cmdChangeAddress _ | .cmdChangeBaud _ | .cmdSetUploadMode _
  | .cmdSetUploadInterval _ | .cmdSetLedMode _ | .cmdSetRelayMode _ | .cmdSetCommMode _ => true
  | .restoreFactoryHard | .restoreFactorySoft | .changeAddress _ _ | .changeBaud _ _
  | .setUploadMode _ _ | .setUploadInterval _ _ | .setLedMode _ _ | .setRelayMode _ _
  | .setCommMode _ _ | .readDistanceReq
  | .distanceReport _ _ _ _ _ _ | .distanceReportHdr _ _ _ | .rxByte _ | .rxTimeout => false

/-- The rows that send a frame as it stands on the line: the ten host-to-device frame rows (log 10). -/
def Instr.isSentFrame (i : Instr) : Bool :=
  i.format == .frame .hostToDevice

end Sys2Proof
end

