-- ==== Sys2Proof/Machine/State.lean ====
section
/-! DEFINITION. The state of the KL200 frame codec as plain data (spec/10_state.md R20 to R35), and the state
after reset (spec/70_reset_and_hazards.md R230, R232). -/

namespace Sys2Proof.Machine

/-- `PH` (R22): is a receive window open? -/
inductive Phase where
  | idle
  | rx
deriving DecidableEq, Repr

/-- The reasons `FLT` can hold (R34, R210). -/
inductive FaultReason where
  /-- A host operation other than RESET was issued while a window was open (R211). -/
  | concurrentOp
  /-- A host-operation encoding that spells no operation (R70). -/
  | illegalOp
deriving DecidableEq, Repr

/-- The values an operation returns (R152 to R156, R170). -/
inductive Value where
  /-- `done()`: no value. -/
  | unit
  /-- AVAIL (R153). -/
  | flag (b : Bool)
  /-- READ_DISTANCE, GET_DISTANCE, GET_LAST: millimetres (R152, R154, R155). -/
  | distance (mm : Word16)
  /-- GET_STATUS (R156). -/
  | status (code : BitVec 3)
  /-- A command operation whose frame was sent (R170). -/
  | ok
  /-- A command operation whose guard failed (R170, R203). -/
  | paramOutOfRange
deriving DecidableEq, Repr

/-- The host operations that return only when the window they opened closes (R242). -/
inductive Call where
  | rxArm
  | readDistance
deriving DecidableEq, Repr

/-- How an operation or event ended (R16). -/
inductive Report where
  | done (v : Value)
  | fault (r : FaultReason)
  | noStep
deriving DecidableEq, Repr

/-- One pending input: what the host, the line or the environment does next (R13, R18; log 1). -/
inductive Input where
  /-- Host operations and line events in the byte notation of R70 and R71, one after another. -/
  | code (bytes : List Byte)
  /-- One frame: sent by the FC, or coming from the device (R60, R67). -/
  | frame (d : Direction) (bytes : Vector Byte 9)
  /-- Bytes come into `LINK_IN` (R35, R45). -/
  | arrive (bytes : List Byte)
deriving DecidableEq, Repr

structure State where
  /-- `PH` (R22). -/
  ph : Phase
  /-- `CNT` (R23). -/
  cnt : BitVec 4
  /-- `BUF[0..8]` (R24). -/
  buf : Vector Byte 9
  /-- `ACC` (R25). -/
  acc : Byte
  /-- `EXP` (R26). -/
  exp : Word16
  /-- `ST` (R27). -/
  st : BitVec 3
  /-- `DV`, lastValidated (R28). -/
  dv : Word16
  /-- `DR`, lastReceived (R28). -/
  dr : Word16
  /-- `AV`, available (R30). -/
  av : Bool
  /-- `HDR`, the copy of `P_HDR_CHECK` (R31). -/
  hdr : Bool
  /-- `FLT` (R34). -/
  flt : Option FaultReason
  /-- `TXLOG` (R34). -/
  txlog : List Byte
  /-- `LINK_IN`, the head first (R35). -/
  linkIn : List Byte
  /-- `P_CMD_TABLE` (R12), static (log 9). -/
  cmdTable : CmdTable
  /-- The model's own: reset draws taken so far (log 5). -/
  draws : Nat
  /-- The model's own: the operation whose return the host waits for (R152, R242; log 3, 23). -/
  waiting : Option Call
  /-- The model's own: how the last operation or event ended (R16; log 4). -/
  ret : Option Report
  /-- The model's own: pending inputs, oldest first (log 1). -/
  inputs : List Input
deriving DecidableEq, Repr

/-- Why the machine stops. -/
inductive Fault where
  /-- `FLT` holds a reason: the FC is stuck, nothing has a step, RESET included (R220). Raised by every
  meaning and by `step`. Safe: the model stops where the spec says the FC does. -/
  | stuck (r : FaultReason)
deriving DecidableEq, Repr

/-- Why the model has no meaning for an input. -/
inductive Refusal where
  /-- An instruction without a meaning yet, raised by `exec`'s arms only. Safe: the model stops. -/
  | notModelled (mnemonic : String)
  /-- A host-to-device frame that is no row of the opcode table, raised by `step` (log 25). Safe: the model
  stops; TX_FRAME sends such frames. -/
  | noSuchCommandFrame
deriving DecidableEq, Repr

/-- The machine right after power-on, which is a RESET (R217, R230), at launch (R232). -/
def State.reset : State where
  ph := .idle
  cnt := 0#4
  buf := Vector.ofFn fun k => Config.bufReset k.val
  acc := 0x00#8
  exp := Config.expReset
  st := stNone
  dv := Config.dvReset 0
  dr := Config.drReset 0
  av := false
  hdr := Config.hdrCheck
  flt := none
  txlog := []
  linkIn := Config.linkInReset
  cmdTable := Config.defaultCmdTable
  draws := 1
  waiting := none
  ret := none
  inputs := []

end Sys2Proof.Machine
end

