-- ==== Sys2Proof/Machine/Ops.lean ====
section
/-! DEFINITION. The shared operations: outcomes and faults (spec/00_scope.md R16, spec/60_exceptions.md R210 to
R220), transmit (spec/20_memory.md R46), the receive window (spec/43_receive.md R124 to R132), RESET
(spec/70_reset_and_hazards.md R231). -/

namespace Sys2Proof.Machine

/-- What a step, a meaning or a shared operation answers. -/
abbrev Result := Host.Outcome State Fault Refusal

/-- Records how an operation ended (log 4). -/
def State.withRet (s : State) (r : Option Report) : State := { s with ret := r }

/-- The pending inputs become `is` (log 1). -/
def State.withInputs (s : State) (is : List Input) : State := { s with inputs := is }

/-- `done(v)` (R16): the operation ends in `s` and returns `v`. -/
def finish (v : Value) (s : State) : Result := .next (s.withRet (some (.done v)))

/-- `no step` (R16, R128): the event is not enabled, and nothing of the FC changes (log 18). -/
def noStep (s : State) : Result := .next (s.withRet (some .noStep))

/-- The state a fault leaves: the reason stands in `FLT`, nothing else of the FC changes (R210, R211). -/
def State.raise (s : State) (r : FaultReason) : State :=
  { s with flt := some r, ret := some (.fault r) }

/-- Taking a model fault (R210, R211): a next state, from which nothing has a step (R220; log 20). There is
no return from it (R208). -/
def takeFault (r : FaultReason) (s : State) : Result := .next (s.raise r)

/-- A faulted FC is stuck (R220; log 19); any other runs `k`. -/
def whenLive (s : State) (k : Result) : Result :=
  match s.flt with
  | some r => .fault (.stuck r)
  | none => k

/-- The prelude of every host operation but RESET: `FLT`, then the concurrency rule (R211, R220). -/
def hostOp (s : State) (k : Result) : Result :=
  whenLive s (match s.ph with
    | .rx => takeFault .concurrentOp s
    | .idle => k)

/-- `TX(F)` (R15, R46): the frame's bytes go out whole and are appended to `TXLOG`. -/
def State.tx (s : State) (frame : List Byte) : State := { s with txlog := s.txlog ++ frame }

/-- Opens a window (R124, R152). -/
def State.arm (s : State) (expected : Word16) : State :=
  { s with exp := expected, cnt := 0#4, acc := 0x00#8, ph := .rx }

/-- Bytes come into `LINK_IN` behind those already waiting (R35, R45). -/
def State.arrive (s : State) (bytes : List Byte) : State := { s with linkIn := s.linkIn ++ bytes }

/-- The effects of an accepted frame (R131). -/
def State.accept (s : State) (d : Word16) : State :=
  { s with dv := d, dr := d, av := true, st := stOk, ph := .idle }

/-- The effects of a rejected frame or a short read (R127, R132). -/
def State.reject (s : State) (e : BitVec 3) : State := { s with st := e, ph := .idle }

/-- Completion (R126): the verdict of R130, then R131 or R132. -/
def State.closeWindow (s : State) : State :=
  match fDecode s.buf.toList s.exp s.hdr with
  | .ok d => s.accept d
  | .error e => s.reject e

/-- The transfer part of RX_BYTE (R125): the head of `LINK_IN` goes to `BUF[CNT]`, bytes 0..7 are folded. -/
def State.storeByte (s : State) (b : Byte) : State :=
  { s with
    linkIn := s.linkIn.tail
    buf := s.buf.setIfInBounds s.cnt.toNat b
    acc := if s.cnt < 8#4 then s.acc ^^^ b else s.acc
    cnt := s.cnt + 1#4 }

/-- RX_BYTE's effect (R125, R126): the transfer, and on the 9th byte the completion. -/
def State.takeByte (s : State) (b : Byte) : State :=
  if s.cnt + 1#4 = 9#4 then (s.storeByte b).closeWindow else s.storeByte b

/-- A window is open for a byte or a timeout (R125, R127). -/
def State.windowOpen (s : State) : Bool := s.ph == .rx && s.cnt < 9#4

/-- Up to `n` RX_BYTE events in a row, as far as they are enabled (R72, R125, R128; log 14). -/
def State.deliver : Nat → State → State
  | 0, s => s
  | n + 1, s =>
    if s.windowOpen then
      match s.linkIn with
      | [] => s
      | b :: _ => (s.takeByte b).deliver n
    else s

/-- A frame from the device: its bytes arrive, and the line hands over what the window takes (log 14). DESIGN
CHOICE, log 14: the outcome (R16) is `done()` whether or not a window takes a byte, the arrival being its effect. -/
def receiveFrame (bytes : List Byte) (s : State) : Result :=
  whenLive s (finish .unit ((s.arrive bytes).deliver 9))

/-- The pattern of every command (R170, R171): guard, then transmit, then return. -/
def sendCommand (guard : Bool) (frame : List Byte) (s : State) : Result :=
  hostOp s (if guard then finish .ok (s.tx frame) else finish .paramOutOfRange s)

/-- GET_DISTANCE's effect (R154): `AV` is cleared. -/
def State.consume (s : State) : State := { s with av := false }

/-- RESET's effect (R231). Both draws are free values (log 5); the rest is untouched. -/
def State.resetOp (s : State) : State :=
  { s with
    ph := .idle
    cnt := 0#4
    acc := 0x00#8
    st := stNone
    av := false
    dv := Config.dvReset s.draws
    dr := Config.drReset s.draws
    draws := s.draws + 1 }

/-- The host waits for the return of `c` (R242; log 3, 23). -/
def State.awaitClose (s : State) (c : Call) : State := { s with waiting := some c, ret := none }

/-- The issue step of READ_DISTANCE (R152): transmit, arm, and wait. -/
def State.issueRead (s : State) : State :=
  ((s.tx (encP0 s.cmdTable.readDistance)).arm s.cmdTable.readDistance).awaitClose .readDistance

/-- The operation that may return now: the host waits for it and the window has closed (R152, R242). -/
def State.callDue (s : State) : Option Call :=
  match s.ph with
  | .idle => s.waiting
  | .rx => none

/-- What a waiting operation returns (R124, R152). -/
def State.callValue (s : State) : Call → Value
  | .rxArm => .unit
  | .readDistance => .distance s.dv

/-- The return of a waiting operation (R152, R242): it writes nothing of the FC. -/
def State.completeCall (s : State) (c : Call) : State :=
  { s with waiting := none, ret := some (.done (s.callValue c)) }

end Sys2Proof.Machine
end

