-- ==== Sys2Proof/Machine/Commands.lean ====
section
/-! DEFINITION. The meanings of the command operations (spec/45_command_frames.md R170 to R180). The ids are
those of the table in force (spec/00_scope.md R12). -/

namespace Sys2Proof.Machine

/-- CMD_RESTORE_FACTORY (R172): no guard. -/
def execCmdRestoreFactory (hard : Bool) (s : State) : Result :=
  sendCommand true (encP1 s.cmdTable.restoreFactory (restoreByte hard)) s

/-- CMD_CHANGE_ADDRESS (R173). -/
def execCmdChangeAddress (addr : Word16) (s : State) : Result :=
  sendCommand (addressGuard addr) (encP2 s.cmdTable.changeAddress addr) s

/-- CMD_CHANGE_BAUD (R174). -/
def execCmdChangeBaud (code : Byte) (s : State) : Result :=
  sendCommand (baudGuard code) (encP1 s.cmdTable.changeBaud code) s

/-- CMD_SET_UPLOAD_MODE (R175): no guard. -/
def execCmdSetUploadMode (auto : Bool) (s : State) : Result :=
  sendCommand true (encP1 s.cmdTable.setUploadMode (boolByte auto)) s

/-- CMD_SET_UPLOAD_INTERVAL (R176). -/
def execCmdSetUploadInterval (n : Byte) (s : State) : Result :=
  sendCommand (intervalGuard n) (encP1 s.cmdTable.setUploadInterval n) s

/-- CMD_SET_LED_MODE (R177). -/
def execCmdSetLedMode (mode : Byte) (s : State) : Result :=
  sendCommand (ledGuard mode) (encP1 s.cmdTable.setLedMode mode) s

/-- CMD_SET_RELAY_MODE (R178). -/
def execCmdSetRelayMode (mode : Byte) (s : State) : Result :=
  sendCommand (relayGuard mode) (encP1 s.cmdTable.setRelayMode mode) s

/-- CMD_SET_COMM_MODE (R179). -/
def execCmdSetCommMode (mode : Byte) (s : State) : Result :=
  sendCommand (commGuard mode) (encP1 s.cmdTable.setCommMode mode) s

end Sys2Proof.Machine
end

