-- ==== Sys2Proof/Machine/Frames.lean ====
section
/-! DEFINITION. The meanings of the frame rows. A host-to-device frame is sent by the FC under the guard of its
command (log 10, 12, 13); the ids are those written in the row (log 9), and byte 8 is the checksum the encoder
computes (spec/42_frame_build.md R110), whatever the word's own checksum byte `_c` (log 11). A device-to-host
frame arrives and is taken by the open window (log 14). -/

namespace Sys2Proof.Machine

/-- RESTORE_FACTORY_HARD (R172). -/
def execRestoreFactoryHard (s : State) : Result := sendCommand true (encP1 0x6239#16 (restoreByte true)) s

/-- RESTORE_FACTORY_SOFT (R172). -/
def execRestoreFactorySoft (s : State) : Result := sendCommand true (encP1 0x6239#16 (restoreByte false)) s

/-- CHANGE_ADDRESS (R173). -/
def execChangeAddress (a : Word16) (_c : Byte) (s : State) : Result :=
  sendCommand (addressGuard a) (encP2 0x6232#16 a) s

/-- CHANGE_BAUD (R174). -/
def execChangeBaud (v _c : Byte) (s : State) : Result := sendCommand (baudGuard v) (encP1 0x6230#16 v) s

/-- SET_UPLOAD_MODE (R175). -/
def execSetUploadMode (v _c : Byte) (s : State) : Result :=
  sendCommand (uploadModeGuard v) (encP1 0x6234#16 v) s

/-- SET_UPLOAD_INTERVAL (R176). -/
def execSetUploadInterval (v _c : Byte) (s : State) : Result :=
  sendCommand (intervalGuard v) (encP1 0x6235#16 v) s

/-- SET_LED_MODE (R177). -/
def execSetLedMode (v _c : Byte) (s : State) : Result := sendCommand (ledGuard v) (encP1 0x6237#16 v) s

/-- SET_RELAY_MODE (R178). -/
def execSetRelayMode (v _c : Byte) (s : State) : Result := sendCommand (relayGuard v) (encP1 0x6238#16 v) s

/-- SET_COMM_MODE (R179). -/
def execSetCommMode (v _c : Byte) (s : State) : Result := sendCommand (commGuard v) (encP1 0x6231#16 v) s

/-- READ_DISTANCE_REQ (R151): the request frame alone, opening no window (log 13). -/
def execReadDistanceReq (s : State) : Result := hostOp s (finish .unit (s.tx (encP0 0x6233#16)))

/-- DISTANCE_REPORT (R65, R130 to R132). -/
def execDistanceReport (len addrHi addrLo : Byte) (d : Word16) (p2 c : Byte) (s : State) : Result :=
  receiveFrame [0x62#8, 0x33#8, len, addrHi, addrLo, hiByte d, loByte d, p2, c] s

/-- DISTANCE_REPORT_HDR (R65, R130 to R132). -/
def execDistanceReportHdr (d : Word16) (p2 c : Byte) (s : State) : Result :=
  receiveFrame
    [0x62#8, 0x33#8, Config.lenTag, Config.addrHi, Config.addrLo, hiByte d, loByte d, p2, c] s

end Sys2Proof.Machine
end

