-- ==== Sys2Proof/Machine/HostOps.lean ====
section
/-! DEFINITION. The meanings of RESET, TX_FRAME and RX_ARM. -/

namespace Sys2Proof.Machine

/-- RESET (spec/70_reset_and_hazards.md R231): the one host operation allowed in an open window. -/
def execReset (s : State) : Result := whenLive s (finish .unit s.resetOp)

/-- TX_FRAME (spec/42_frame_build.md R111): any id, any parameter bytes, no guard. -/
def execTxFrame (cmd : Word16) (p0 p1 p2 : Byte) (s : State) : Result :=
  hostOp s (finish .unit (s.tx (enc cmd p0 p1 p2)))

/-- RX_ARM (spec/43_receive.md R124): it opens the window at once, and returns to the host when the window
closes, in a step of its own (spec/70_reset_and_hazards.md R242; log 23). -/
def execRxArm (expected : Word16) (s : State) : Result :=
  hostOp s (.next ((s.arm expected).awaitClose .rxArm))

end Sys2Proof.Machine
end

