-- ==== Sys2Proof/Machine/Line.lean ====
section
/-! DEFINITION. The meanings of the line events RX_BYTE and RX_TIMEOUT. -/

namespace Sys2Proof.Machine

/-- RX_BYTE (spec/43_receive.md R125, R126, R128): enabled in an open window, for the byte at the head of
`LINK_IN`. An event that names another byte is not enabled (log 17). -/
def execRxByte (b : Byte) (s : State) : Result :=
  whenLive s
    (if s.windowOpen && s.linkIn.head? == some b then finish .unit (s.takeByte b) else noStep s)

/-- RX_TIMEOUT (spec/43_receive.md R127, R128): a short read, at any `CNT` of an open window. -/
def execRxTimeout (s : State) : Result :=
  whenLive s (if s.windowOpen then finish .unit (s.reject stShortRead) else noStep s)

end Sys2Proof.Machine
end

