-- ==== Sys2Proof/Machine/Reading.lean ====
section
/-! DEFINITION. The meanings of READ_DISTANCE and of the host's reads of the result registers. -/

namespace Sys2Proof.Machine

/-- READ_DISTANCE (spec/44_result.md R152): its issue step. The completion is a step of its own, taken by
`step` when the window has closed (log 3). -/
def execReadDistance (s : State) : Result := hostOp s (.next s.issueRead)

/-- AVAIL (spec/44_result.md R153). -/
def execAvail (s : State) : Result := hostOp s (finish (.flag s.av) s)

/-- GET_DISTANCE (spec/44_result.md R154): returns `DV` and clears `AV`. -/
def execGetDistance (s : State) : Result := hostOp s (finish (.distance s.dv) s.consume)

/-- GET_LAST (spec/44_result.md R155): returns `DR`, never touching `AV`. -/
def execGetLast (s : State) : Result := hostOp s (finish (.distance s.dr) s)

/-- GET_STATUS (spec/44_result.md R156). -/
def execGetStatus (s : State) : Result := hostOp s (finish (.status s.st) s)

end Sys2Proof.Machine
end

