-- ==== Sys2Proof/Machine/Dispatch.lean ====
section
/-! DEFINITION. The dispatch: one arm per constructor of Instr. -/

namespace Sys2Proof.Machine

/-- The meaning of each instruction. -/
def exec (i : Instr) (s : State) : Host.Outcome State Fault Refusal :=
  match i with
  -- frame72, host to device
  | .restoreFactoryHard => Sys2Proof.Machine.execRestoreFactoryHard s
  | .restoreFactorySoft => Sys2Proof.Machine.execRestoreFactorySoft s
  | .changeAddress a c => Sys2Proof.Machine.execChangeAddress a c s
  | .changeBaud v c => Sys2Proof.Machine.execChangeBaud v c s
  | .setUploadMode v c => Sys2Proof.Machine.execSetUploadMode v c s
  | .setUploadInterval v c => Sys2Proof.Machine.execSetUploadInterval v c s
  | .setLedMode v c => Sys2Proof.Machine.execSetLedMode v c s
  | .setRelayMode v c => Sys2Proof.Machine.execSetRelayMode v c s
  | .setCommMode v c => Sys2Proof.Machine.execSetCommMode v c s
  | .readDistanceReq => Sys2Proof.Machine.execReadDistanceReq s
  -- frame72, device to host
  | .distanceReport len ah al d p2 c => Sys2Proof.Machine.execDistanceReport len ah al d p2 c s
  | .distanceReportHdr d p2 c => Sys2Proof.Machine.execDistanceReportHdr d p2 c s
  -- host operations
  | .reset => Sys2Proof.Machine.execReset s
  | .txFrame cmd p0 p1 p2 => Sys2Proof.Machine.execTxFrame cmd p0 p1 p2 s
  | .rxArm expected => Sys2Proof.Machine.execRxArm expected s
  | .readDistance => Sys2Proof.Machine.execReadDistance s
  | .avail => Sys2Proof.Machine.execAvail s
  | .getDistance => Sys2Proof.Machine.execGetDistance s
  | .getLast => Sys2Proof.Machine.execGetLast s
  | .getStatus => Sys2Proof.Machine.execGetStatus s
  | .cmdRestoreFactory hard => Sys2Proof.Machine.execCmdRestoreFactory hard s
  | .cmdChangeAddress addr => Sys2Proof.Machine.execCmdChangeAddress addr s
  | .cmdChangeBaud code => Sys2Proof.Machine.execCmdChangeBaud code s
  | .cmdSetUploadMode auto => Sys2Proof.Machine.execCmdSetUploadMode auto s
  | .cmdSetUploadInterval n => Sys2Proof.Machine.execCmdSetUploadInterval n s
  | .cmdSetLedMode mode => Sys2Proof.Machine.execCmdSetLedMode mode s
  | .cmdSetRelayMode mode => Sys2Proof.Machine.execCmdSetRelayMode mode s
  | .cmdSetCommMode mode => Sys2Proof.Machine.execCmdSetCommMode mode s
  -- line events
  | .rxByte b => Sys2Proof.Machine.execRxByte b s
  | .rxTimeout => Sys2Proof.Machine.execRxTimeout s

end Sys2Proof.Machine
end

