-- ==== Sys2Proof/WellFormed.lean ====
section
/-! DEFINITION. Well-formed instructions. Every operand type has exactly the row's width, so the one check
left is that each device-to-host word stands for one row (log 15). -/

namespace Sys2Proof

/-- A DISTANCE_REPORT whose bytes 2..4 are 09 FF FF is written as the row DISTANCE_REPORT_HDR (log 15). -/
def Instr.wf : Instr → Bool
  | .distanceReport len addrHi addrLo _ _ _ =>
    !(len == Config.lenTag && addrHi == Config.addrHi && addrLo == Config.addrLo)
  | .restoreFactoryHard | .restoreFactorySoft | .changeAddress _ _ | .changeBaud _ _
  | .setUploadMode _ _ | .setUploadInterval _ _ | .setLedMode _ _ | .setRelayMode _ _
  | .setCommMode _ _ | .readDistanceReq | .distanceReportHdr _ _ _
  | .reset | .txFrame _ _ _ _ | .rxArm _ | .readDistance | .avail | .getDistance | .getLast | .getStatus
  | .cmdRestoreFactory _ | .cmdChangeAddress _ | .cmdChangeBaud _ | .cmdSetUploadMode _
  | .cmdSetUploadInterval _ | .cmdSetLedMode _ | .cmdSetRelayMode _ | .cmdSetCommMode _
  | .rxByte _ | .rxTimeout => true

/-- `i` is a term the decoder can produce. -/
abbrev WellFormed (i : Instr) : Prop := i.wf = true

end Sys2Proof
end

