-- ==== Sys2Proof/Decode.lean ====
section
/-! DEFINITION. The decoder, total on any bytes, and after it the encoder (spec/30_encoding.md R60, R64, R66,
R70, R71; spec/opcode_table.json). -/

namespace Sys2Proof

open Sys2Proof.Machine (be16 hiByte loByte)

/-- Why bytes spell no instruction. -/
inductive DecodeError where
  /-- The op code, or an operand byte of it, is missing. -/
  | truncated
  /-- The op code is none of R70 and R71. -/
  | unknownOpCode (op : Byte)
  /-- The operand of 0x10 or 0x13 is neither 0x00 nor 0x01 (R70). -/
  | badBoolean (op operand : Byte)
  /-- The nine bytes match no frame row of that direction. -/
  | noFrameRow (d : Direction)
deriving DecidableEq, Repr

/-- What a decoder answers: the instruction and the bytes after it, or why there is none. -/
abbrev Decoded := Except DecodeError (Instr × List Byte)

/-- Reads a one-byte operand. -/
def readByte (k : Byte → Instr) : List Byte → Decoded
  | v :: rest => .ok (k v, rest)
  | _ => .error .truncated

/-- Reads a two-byte operand, the high byte first (R43, R70). -/
def readWord (k : Word16 → Instr) : List Byte → Decoded
  | h :: l :: rest => .ok (k (be16 h l), rest)
  | _ => .error .truncated

/-- Reads a Boolean operand: 0x01 or 0x00, and no other byte (R70). -/
def readBool (op : Byte) (k : Bool → Instr) : List Byte → Decoded
  | v :: rest =>
    if v = 0x01#8 then .ok (k true, rest)
    else if v = 0x00#8 then .ok (k false, rest)
    else .error (.badBoolean op v)
  | _ => .error .truncated

/-- Reads the operands of TX_FRAME: c_hi c_lo p0 p1 p2 (R70). -/
def readFrameArgs (k : Word16 → Byte → Byte → Byte → Instr) : List Byte → Decoded
  | h :: l :: p0 :: p1 :: p2 :: rest => .ok (k (be16 h l) p0 p1 p2, rest)
  | _ => .error .truncated

/-- The operation of an op-code byte, with its operands read from the bytes after it: the tables of R70 and
R71. Every other op code spells no operation. -/
def decodeOp (op : Byte) (rest : List Byte) : Decoded :=
  if op = 0x00#8 then .ok (.reset, rest)
  else if op = 0x01#8 then readFrameArgs .txFrame rest
  else if op = 0x02#8 then readWord .rxArm rest
  else if op = 0x03#8 then .ok (.readDistance, rest)
  else if op = 0x04#8 then .ok (.avail, rest)
  else if op = 0x05#8 then .ok (.getDistance, rest)
  else if op = 0x06#8 then .ok (.getLast, rest)
  else if op = 0x07#8 then .ok (.getStatus, rest)
  else if op = 0x10#8 then readBool op .cmdRestoreFactory rest
  else if op = 0x11#8 then readWord .cmdChangeAddress rest
  else if op = 0x12#8 then readByte .cmdChangeBaud rest
  else if op = 0x13#8 then readBool op .cmdSetUploadMode rest
  else if op = 0x14#8 then readByte .cmdSetUploadInterval rest
  else if op = 0x15#8 then readByte .cmdSetLedMode rest
  else if op = 0x16#8 then readByte .cmdSetRelayMode rest
  else if op = 0x17#8 then readByte .cmdSetCommMode rest
  else if op = 0x80#8 then readByte .rxByte rest
  else if op = 0x81#8 then .ok (.rxTimeout, rest)
  else .error (.unknownOpCode op)

/-- The host-to-device frame row of a low id byte and the bytes 5, 6 and 8; bytes 0, 2, 3, 4 and 7 have been
matched (R60, R64, R66, opcode_table.json). A row's mask leaves its checksum byte open, and so does this
(log 11). -/
def sentRow (idLow f5 f6 f8 : Byte) : Option Instr :=
  if idLow = 0x32#8 then some (.changeAddress (be16 f5 f6) f8)
  else if f6 ≠ 0x00#8 then none
  else if idLow = 0x30#8 then some (.changeBaud f5 f8)
  else if idLow = 0x31#8 then some (.setCommMode f5 f8)
  else if idLow = 0x34#8 then some (.setUploadMode f5 f8)
  else if idLow = 0x35#8 then some (.setUploadInterval f5 f8)
  else if idLow = 0x37#8 then some (.setLedMode f5 f8)
  else if idLow = 0x38#8 then some (.setRelayMode f5 f8)
  else if idLow = 0x33#8 ∧ f5 = 0x00#8 ∧ f8 = 0x58#8 then some .readDistanceReq
  else if idLow = 0x39#8 ∧ f5 = 0xFE#8 ∧ f8 = 0xAC#8 then some .restoreFactoryHard
  else if idLow = 0x39#8 ∧ f5 = 0xFD#8 ∧ f8 = 0xAF#8 then some .restoreFactorySoft
  else none

/-- A frame on its way to the device: the header bytes are constants (R60) and param2 is 0x00 in every row
(R64). -/
def decodeSent : List Byte → Decoded
  | f0 :: f1 :: f2 :: f3 :: f4 :: f5 :: f6 :: f7 :: f8 :: rest =>
    if f0 = 0x62#8 ∧ f2 = Config.lenTag ∧ f3 = Config.addrHi ∧ f4 = Config.addrLo ∧ f7 = 0x00#8 then
      match sentRow f1 f5 f6 f8 with
      | some i => .ok (i, rest)
      | none => .error (.noFrameRow .hostToDevice)
    else .error (.noFrameRow .hostToDevice)
  | _ => .error .truncated

/-- A frame on its way to the host: the distance report (R65), in the row its header bytes match. -/
def decodeReceived : List Byte → Decoded
  | f0 :: f1 :: f2 :: f3 :: f4 :: f5 :: f6 :: f7 :: f8 :: rest =>
    if f0 = 0x62#8 ∧ f1 = 0x33#8 then
      if f2 = Config.lenTag ∧ f3 = Config.addrHi ∧ f4 = Config.addrLo then
        .ok (.distanceReportHdr (be16 f5 f6) f7 f8, rest)
      else .ok (.distanceReport f2 f3 f4 (be16 f5 f6) f7 f8, rest)
    else .error (.noFrameRow .deviceToHost)
  | _ => .error .truncated

/-- The instruction at the head of a byte sequence written in a format, and the bytes after it. -/
def decode : Format → List Byte → Decoded
  | .opCode, op :: rest => decodeOp op rest
  | .opCode, [] => .error .truncated
  | .frame .hostToDevice, bs => decodeSent bs
  | .frame .deviceToHost, bs => decodeReceived bs

/-- The nine bytes of a host-to-device frame with id 0x62 `idLow` (R60, R66). -/
def sentBytes (idLow p0 p1 c : Byte) : List Byte :=
  [0x62#8, idLow, Config.lenTag, Config.addrHi, Config.addrLo, p0, p1, 0x00#8, c]

/-- The nine bytes of a distance report (R65). -/
def reportBytes (len addrHi addrLo : Byte) (d : Word16) (p2 c : Byte) : List Byte :=
  [0x62#8, 0x33#8, len, addrHi, addrLo, hiByte d, loByte d, p2, c]

/-- The encoder: the bytes of an instruction in its own format (R60 to R71). -/
def encode : Instr → List Byte
  | .restoreFactoryHard => sentBytes 0x39#8 0xFE#8 0x00#8 0xAC#8
  | .restoreFactorySoft => sentBytes 0x39#8 0xFD#8 0x00#8 0xAF#8
  | .changeAddress a c => sentBytes 0x32#8 (hiByte a) (loByte a) c
  | .changeBaud v c => sentBytes 0x30#8 v 0x00#8 c
  | .setUploadMode v c => sentBytes 0x34#8 v 0x00#8 c
  | .setUploadInterval v c => sentBytes 0x35#8 v 0x00#8 c
  | .setLedMode v c => sentBytes 0x37#8 v 0x00#8 c
  | .setRelayMode v c => sentBytes 0x38#8 v 0x00#8 c
  | .setCommMode v c => sentBytes 0x31#8 v 0x00#8 c
  | .readDistanceReq => sentBytes 0x33#8 0x00#8 0x00#8 0x58#8
  | .distanceReport len addrHi addrLo d p2 c => reportBytes len addrHi addrLo d p2 c
  | .distanceReportHdr d p2 c => reportBytes Config.lenTag Config.addrHi Config.addrLo d p2 c
  | .reset => [0x00#8]
  | .txFrame cmd p0 p1 p2 => [0x01#8, hiByte cmd, loByte cmd, p0, p1, p2]
  | .rxArm expected => [0x02#8, hiByte expected, loByte expected]
  | .readDistance => [0x03#8]
  | .avail => [0x04#8]
  | .getDistance => [0x05#8]
  | .getLast => [0x06#8]
  | .getStatus => [0x07#8]
  | .cmdRestoreFactory hard => [0x10#8, if hard then 0x01#8 else 0x00#8]
  | .cmdChangeAddress addr => [0x11#8, hiByte addr, loByte addr]
  | .cmdChangeBaud code => [0x12#8, code]
  | .cmdSetUploadMode auto => [0x13#8, if auto then 0x01#8 else 0x00#8]
  | .cmdSetUploadInterval n => [0x14#8, n]
  | .cmdSetLedMode mode => [0x15#8, mode]
  | .cmdSetRelayMode mode => [0x16#8, mode]
  | .cmdSetCommMode mode => [0x17#8, mode]
  | .rxByte b => [0x80#8, b]
  | .rxTimeout => [0x81#8]

/-- Byte `k` of an `n`-byte word of the opcode table. The table writes the first byte in the high bits
(opcode_table.json: RX_ARM has its op code at bits 23..16; log 22). -/
def tableByte (n w k : Nat) : Byte := BitVec.ofNat 8 (w >>> (8 * (n - 1 - k)))

/-- The `n` bytes of an opcode-table word, in the order they are sent. -/
def tableBytes (n w : Nat) : List Byte := (List.range n).map (tableByte n w)

/-- The format of a table word, by its width and, for a 72-bit word, by the direction whose row it matches:
host to device first (log 16). -/
def tableFormat (nbits w : Nat) : Format :=
  if nbits = 72 then
    match decode (.frame .hostToDevice) (tableBytes 9 w) with
    | .ok _ => .frame .hostToDevice
    | .error _ => .frame .deviceToHost
  else .opCode

/-- The bytes of a table word, followed by the zero bytes an operand the table gives no bits would have. The
longest instruction is nine bytes. -/
def paddedBytes (nbits w : Nat) : List Byte :=
  tableBytes (nbits / 8) w ++ List.replicate 9 0x00#8

/-- The instruction a table word stands for; none where the decoder refuses it, or where the instruction is
shorter than the word. -/
def decodeTableWord (nbits w : Nat) : Option Instr :=
  match decode (tableFormat nbits w) (paddedBytes nbits w) with
  | .ok (i, rest) => if rest.length ≤ 9 then some i else none
  | .error _ => none

/-- The bytes of the one instruction a table word stands for (the word's own bytes where it stands for none). -/
def tableInstrBytes (nbits w : Nat) : List Byte :=
  match decode (tableFormat nbits w) (paddedBytes nbits w) with
  | .ok (_, rest) => (paddedBytes nbits w).take ((paddedBytes nbits w).length - rest.length)
  | .error _ => tableBytes (nbits / 8) w

end Sys2Proof
end

