-- ==== Sys2Proof/Machine/Fetch.lean ====
section
/-! DEFINITION. From the pending inputs to an instruction (log 1): what `step` reads, and what an input that
spells no instruction does. -/

namespace Sys2Proof.Machine

/-- The instruction at the head of an input, and the bytes left after it. -/
def inputInstr : Input → Option (Instr × List Byte)
  | .code bs => (decode .opCode bs).toOption
  | .frame d f => (decode (.frame d) f.toList).toOption
  | .arrive _ => none

/-- The pending inputs once an instruction has been read: the bytes left of its program stay in front. -/
def pushBack (left : List Byte) (rest : List Input) : List Input :=
  if left = [] then rest else .code left :: rest

/-- An input that spells no instruction. Bytes that come in do so (R35, R45). An op-code sequence faults with
ILLEGAL_OP (R70, R210; log 21), unless it is empty. A frame from the device with any other bytes is delivered
like a report (R13, R68; log 25); a command frame that is no row is refused (log 25). -/
def otherInput (inp : Input) (s : State) : Result :=
  match inp with
  | .arrive bs => .next (s.arrive bs)
  | .code [] => .next s
  | .code (_ :: _) => takeFault .illegalOp s
  | .frame .deviceToHost f => receiveFrame f.toList s
  | .frame .hostToDevice _ => .refused .noSuchCommandFrame

/-- The input that holds one opcode-table word (log 1, 16, 22). -/
def tableInput (nbits w : Nat) : Input :=
  match tableFormat nbits w with
  | .opCode => .code (tableInstrBytes nbits w)
  | .frame d => .frame d (Vector.ofFn fun k => tableByte 9 w k.val)

/-- The state in which `inp` is what the next step reads. With no window open, a waiting operation is taken as
returned, since its return would come first (log 3). -/
def State.withNextInput (s : State) (inp : Input) : State :=
  { s with
    inputs := inp :: s.inputs
    waiting := match s.ph with
      | .idle => none
      | .rx => s.waiting }

end Sys2Proof.Machine
end

