-- ==== Sys2Proof/Machine/Step.lean ====
section
/-! DEFINITION. One step of the machine. The FC takes no step of its own (spec/00_scope.md R18): a step is the
return of a waiting operation whose window has closed, or the next pending input, and with none pending nothing changes. -/

namespace Sys2Proof.Machine

/-- One step (R18, R50; log 1, 2). -/
def step (s : State) : Host.Outcome State Fault Refusal :=
  whenLive s
    (match s.callDue with
    | some c => .next (s.completeCall c)
    | none =>
      match s.inputs with
      | [] => .next s
      | inp :: rest =>
        match inputInstr inp with
        | some (i, left) => exec i (s.withInputs (pushBack left rest))
        | none => otherInput inp (s.withInputs rest))

/-- `s` with an opcode-table word as what `step` reads next (log 1). -/
def State.withFetchWord (s : State) (nbits w : Nat) : State := s.withNextInput (tableInput nbits w)

end Sys2Proof.Machine
end

