-- ==== Sys2Proof/Safety.lean ====
section
/-! DEFINITION. The terms claims use: runs, the fairness assumption of R242, the invariant, and what the last
window's status says. -/

namespace Sys2Proof.Machine

/-- The instructions of a list, one after another, stopping at the first fault or refusal. -/
def execAll : List Instr → State → Result
  | [], s => .next s
  | i :: is, s =>
    match exec i s with
    | .next t => execAll is t
    | .fault r => .fault r
    | .refused r => .refused r

/-- The bytes of the frames ENC builds from a list of ids and parameters (spec/42_frame_build.md R110). -/
def sentFrames (fs : List (Word16 × Byte × Byte × Byte)) : List Byte :=
  fs.flatMap fun f => enc f.1 f.2.1 f.2.2.1 f.2.2.2

/-- What every step keeps. -/
structure State.Inv (s : State) : Prop where
  /-- `CNT` is never 10..15 (spec/10_state.md R23). -/
  cnt_legal : s.cnt ≤ 9#4
  /-- An open window has room: never `PH = RX` with `CNT = 9` (spec/43_receive.md R126). -/
  open_room : s.ph = .rx → s.cnt < 9#4
  /-- `ACC` is the XOR of the bytes taken so far, byte 8 left out (spec/10_state.md R25). -/
  acc_fold : s.acc = chk (s.buf.toList.take (min s.cnt.toNat 8))
  /-- `ST` is never 5..7 (spec/10_state.md R27). -/
  st_legal : s.st ≤ 4#3
  /-- A reading that is fresh, or was the last window's, stands in both registers (spec/10_state.md R29). -/
  reading_alias : s.av = true ∨ s.st = stOk → s.dv = s.dr
  /-- Every byte sent belongs to a whole frame that ENC built (spec/42_frame_build.md R112). -/
  sent_frames : ∃ fs, s.txlog = sentFrames fs

/-- With no window open, `ST`, `CNT`, `BUF`, `ACC`, `EXP` and the reading tell one story: how the last window
ended (spec/10_state.md R23, R27, R28; spec/60_exceptions.md R201). -/
structure State.LastWindow (s : State) : Prop where
  /-- No window since RESET. -/
  none_yet : s.ph = .idle → s.st = stNone → s.cnt = 0#4
  /-- A short read keeps the count of the bytes it got. -/
  short : s.ph = .idle → s.st = stShortRead → s.cnt < 9#4
  /-- Any other code was given to a whole frame. -/
  whole : s.ph = .idle → (s.st = stOk ∨ s.st = stMalformed ∨ s.st = stChecksumMismatch) → s.cnt = 9#4
  /-- The buffer of an accepted frame still decodes to the reading. -/
  accepted : s.ph = .idle → s.st = stOk → fDecode s.buf.toList s.exp s.hdr = .ok s.dv
  /-- The buffer of a rejected frame still decodes to the recorded error. -/
  rejected : s.ph = .idle → (s.st = stMalformed ∨ s.st = stChecksumMismatch) →
    fDecode s.buf.toList s.exp s.hdr = .error s.st

/-- The instruction a step at `s` runs, where it runs one. -/
def State.nextInstr (s : State) : Option Instr :=
  match s.callDue with
  | some _ => none
  | none =>
    match s.inputs with
    | [] => none
    | inp :: _ => (inputInstr inp).map (·.1)

/-- A run without end: steps, between which the host, the line and the environment may put inputs behind those
pending (spec/00_scope.md R13, R18; log 1). A step that faults ends a run. -/
def Run (r : Nat → State) : Prop :=
  ∀ n, ∃ (t : State) (more : List Input),
    step (r n) = .next t ∧ r (n + 1) = t.withInputs (t.inputs ++ more)

/-- A byte is taken between `s` and `t`: a window is open and `CNT` grows (spec/43_receive.md R125). -/
def TakesByte (s t : State) : Prop := s.ph = .rx ∧ s.cnt < t.cnt

/-- The fairness assumption that stands for the configured timeout (spec/70_reset_and_hazards.md R242, decision
D5; log 26): an open window that gets no further byte, and that no RESET abandons, eventually sees RX_TIMEOUT.
The machine does not have it built in: a claim that windows end takes it as a premise, by this name. -/
def TimeoutFair (r : Nat → State) : Prop :=
  ∀ n, (r n).ph = .rx → ∃ m, n ≤ m ∧
    (TakesByte (r m) (r (m + 1)) ∨ (r m).nextInstr = some .rxTimeout ∨ (r m).nextInstr = some .reset)

end Sys2Proof.Machine
end

