-- ==== Sys2Proof/Certificates/Slice0/Obligations.lean ====
section
/-! DEFINITION. The statements for the provers. States are written as record updates of the state before, so
that each result statement says its whole frame: every field not named is unchanged. -/

open Sys2Proof Sys2Proof.Machine

namespace Sys2Proof.Claims

/-- `s` after an operation that returned `v` and changed nothing else. -/
abbrev returned (v : Value) (s : State) : State := { s with ret := some (.done v) }

/-- The two ways a host operation but RESET does not run: the FC is faulted (R220, decision D31; log 19), or a
window is open (R211, decision D15; log 20). -/
def Guarded (i : Instr) (s : State) : Prop :=
  (∀ r, s.flt = some r → exec i s = .fault (.stuck r)) ∧
  (s.flt = none → s.ph = .rx →
    exec i s = .next { s with flt := some .concurrentOp, ret := some (.fault .concurrentOp) })

/-- A host operation: guarded, and otherwise it ends in `k s`. -/
def Answers (i : Instr) (k : State → State) : Prop :=
  ∀ s : State, Guarded i s ∧ (s.flt = none → s.ph = .idle → exec i s = .next (k s))

/-- A command (R170): guarded; with its guard passed it appends `frame` to `TXLOG` and returns OK; with its
guard failed it returns PARAM_OUT_OF_RANGE and writes nothing. -/
def Sends (i : Instr) (guard : Prop) (frame : List Byte) (s : State) : Prop :=
  Guarded i s ∧
  (s.flt = none → s.ph = .idle → guard →
    exec i s = .next { s with txlog := s.txlog ++ frame, ret := some (.done .ok) }) ∧
  (s.flt = none → s.ph = .idle → ¬ guard →
    exec i s = .next { s with ret := some (.done .paramOutOfRange) })

/-- A command under the default command table (R12, R66), the table the claim assumes. -/
def Commands (i : Instr) (guard : Prop) (frame : List Byte) : Prop :=
  ∀ s : State, s.cmdTable = Config.defaultCmdTable → Sends i guard frame s

/-- A frame of the opcode table: bytes 2..4 and byte 7 are constants. -/
def wire (idLow p0 p1 c : Byte) : List Byte :=
  [0x62#8, idLow, 0x09#8, 0xFF#8, 0xFF#8, p0, p1, 0x00#8, c]

/-- The nine bytes of a DISTANCE_REPORT word. -/
def report (len ah al : Byte) (d : Word16) (p2 c : Byte) : List Byte :=
  [0x62#8, 0x33#8, len, ah, al, d.extractLsb' 8 8, d.extractLsb' 0 8, p2, c]

/-- `s` with nine bytes taken into an empty window: the buffer is `F`, `ACC` the XOR of its first eight. -/
def filled (F : Vector Byte 9) (s : State) : State :=
  { s with buf := F, cnt := 9#4, acc := chk (F.toList.take 8) }

/-- `s` with a closed window, by the verdict of F_DECODE (R126): R131 or R132. -/
def judged (v : Except (BitVec 3) Word16) (s : State) : State :=
  match v with
  | .ok d => { s with dv := d, dr := d, av := true, st := 1#3, ph := .idle }
  | .error e => { s with st := e, ph := .idle }

/-- A line event: a received byte or frame, or the timeout. -/
def isRx (i : Instr) : Prop :=
  (∃ b, i = .rxByte b) ∨ (∃ len ah al d p2 c, i = .distanceReport len ah al d p2 c) ∨
  ∃ d p2 c, i = .distanceReportHdr d p2 c

end Sys2Proof.Claims

open Sys2Proof.Claims

/-! ### Encodings -/

/-- Words written out from the spec's encodings decode to their rows (opcode_table.json; R60, R66, R70, R71;
95_test_vectors.md P1, P4, P6). The model's choices: that `62 33 09 FF FF 00 00 00 58`, a request and a report
alike (R74), is read as READ_DISTANCE_REQ (log 16), that a report with header 09 FF FF is read as the HDR row
(log 15), and that a table word's first byte stands in its high bits (log 22). -/
def Obligations.SpecWordsDecodeToTheirRows : Prop :=
  decodeTableWord 72 0x623909FFFFFE0000AC = some .restoreFactoryHard ∧
  decodeTableWord 72 0x623209FFFF1234007F = some (.changeAddress 0x1234#16 0x7F#8) ∧
  decodeTableWord 72 0x623509FFFF6400003A = some (.setUploadInterval 0x64#8 0x3A#8) ∧
  decodeTableWord 72 0x623309FFFF00000058 = some .readDistanceReq ∧
  decodeTableWord 72 0x623309FFFF0064003C = some (.distanceReportHdr 0x0064#16 0x00#8 0x3C#8) ∧
  decodeTableWord 72 0x623308FFFF0064003D =
    some (.distanceReport 0x08#8 0xFF#8 0xFF#8 0x0064#16 0x00#8 0x3D#8) ∧
  decodeTableWord 48 0x016237020000 = some (.txFrame 0x6237#16 0x02#8 0x00#8 0x00#8) ∧
  decodeTableWord 24 0x026233 = some (.rxArm 0x6233#16) ∧
  decodeTableWord 24 0x111234 = some (.cmdChangeAddress 0x1234#16) ∧
  decodeTableWord 16 0x1001 = some (.cmdRestoreFactory true) ∧
  decodeTableWord 16 0x8062 = some (.rxByte 0x62#8) ∧
  decodeTableWord 8 0x81 = some .rxTimeout

/-- No bit of an encoding is dropped: every well-formed instruction, followed by anything, is read back. -/
def Obligations.DecodeInvertsEncode : Prop :=
  ∀ (i : Instr) (rest : List Byte), WellFormed i → decode i.format (encode i ++ rest) = .ok (i, rest)

/-- The decoder reads nothing but encodings: what it answers is well-formed, in the format asked for, and
its bytes are exactly the encoding. -/
def Obligations.DecodeReadsOnlyEncodings : Prop :=
  ∀ (f : Format) (bs : List Byte) (i : Instr) (rest : List Byte), decode f bs = .ok (i, rest) →
    WellFormed i ∧ i.format = f ∧ bs = encode i ++ rest

/-- R70 (the spec's own encoding, decision D3): an op code in neither table, or a Boolean operand other than
0x00 and 0x01, spells no operation. -/
def Obligations.UnlistedOpCodesSpellNothing : Prop :=
  (∀ (op : Byte) (rest : List Byte),
    op ∉ [0x00#8, 0x01#8, 0x02#8, 0x03#8, 0x04#8, 0x05#8, 0x06#8, 0x07#8, 0x10#8, 0x11#8, 0x12#8, 0x13#8,
      0x14#8, 0x15#8, 0x16#8, 0x17#8, 0x80#8, 0x81#8] →
    decode .opCode (op :: rest) = .error (.unknownOpCode op)) ∧
  (∀ (op v : Byte) (rest : List Byte), op = 0x10#8 ∨ op = 0x13#8 → v ≠ 0x00#8 → v ≠ 0x01#8 →
    decode .opCode (op :: v :: rest) = .error (.badBoolean op v))

/-- R70, R210 (decisions D3, D15; log 20, 21): an op-code sequence that spells no operation sets `FLT` to
ILLEGAL_OP and does nothing else. The model's choices: the fault is raised in a next state (log 20), and the
rest of the input is dropped (log 21). -/
def Obligations.IllegalEncodingFaults : Prop :=
  ∀ (s : State) (op : Byte) (bs : List Byte) (is : List Input) (e : DecodeError),
    s.flt = none → s.callDue = none → s.inputs = .code (op :: bs) :: is →
    decode .opCode (op :: bs) = .error e →
    step s = .next { s with inputs := is, flt := some .illegalOp, ret := some (.fault .illegalOp) }

/-- The checksum formulas of opcode_table.json's field c: a command-frame word is the frame ENC builds exactly
when its byte c is the row's formula. -/
def Obligations.CommandWordsCarryTheRowChecksum : Prop :=
  ∀ (a : Word16) (v c : Byte),
    (encode (.changeAddress a c) = encP2 0x6232#16 a ↔
      c = 0x59#8 ^^^ a.extractLsb' 8 8 ^^^ a.extractLsb' 0 8) ∧
    (encode (.changeBaud v c) = encP1 0x6230#16 v ↔ c = 0x5B#8 ^^^ v) ∧
    (encode (.setUploadMode v c) = encP1 0x6234#16 v ↔ c = 0x5F#8 ^^^ v) ∧
    (encode (.setUploadInterval v c) = encP1 0x6235#16 v ↔ c = 0x5E#8 ^^^ v) ∧
    (encode (.setLedMode v c) = encP1 0x6237#16 v ↔ c = 0x5C#8 ^^^ v) ∧
    (encode (.setRelayMode v c) = encP1 0x6238#16 v ↔ c = 0x53#8 ^^^ v) ∧
    (encode (.setCommMode v c) = encP1 0x6231#16 v ↔ c = 0x5A#8 ^^^ v)

/-! ### CHK and ENC -/

/-- R100: CHK starts at 0x00 and XORs byte after byte; the order does not matter; a byte that occurs twice
cancels itself; the spec's example. -/
def Obligations.ChkIsTheXorFold : Prop :=
  chk [] = 0x00#8 ∧
  (∀ (bs : List Byte) (b : Byte), chk (bs ++ [b]) = chk bs ^^^ b) ∧
  (∀ bs cs : List Byte, bs.Perm cs → chk bs = chk cs) ∧
  (∀ (bs cs ds : List Byte) (b : Byte), chk (bs ++ b :: (cs ++ b :: ds)) = chk (bs ++ cs ++ ds)) ∧
  chk [0x62#8, 0x33#8, 0x09#8, 0xFF#8, 0xFF#8, 0x00#8, 0x64#8, 0x00#8] = 0x3C#8

/-- R102, R104 (marked derived by the spec): byte 8 is the checksum of bytes 0..7 exactly when all nine bytes
fold to zero; and against a valid frame `F`, a received frame `G` passes the checksum comparison exactly when
every bit column of the error pattern holds an even number of ones; so an error in one byte alone is always
detected. -/
def Obligations.ChecksumPassesEvenErrors : Prop :=
  (∀ F : Vector Byte 9, F[8] = chk (F.toList.take 8) ↔ chk F.toList = 0x00#8) ∧
  ∀ F G : Vector Byte 9, F[8] = chk (F.toList.take 8) →
    (G[8] = chk (G.toList.take 8) ↔
      ∀ k, k < 8 → Even ((List.zipWith (· ^^^ ·) F.toList G.toList).countP (·.getLsbD k))) ∧
    (∀ (k : Fin 9) (b : Byte), G = F.set k b → b ≠ F[k] → G[8] ≠ chk (G.toList.take 8))

/-- R110: ENC's nine bytes, for every id and every parameter byte; the spec's example. -/
def Obligations.EncBuildsTheFrame : Prop :=
  (∀ (cmd : Word16) (p0 p1 p2 : Byte),
    enc cmd p0 p1 p2 =
      [cmd.extractLsb' 8 8, cmd.extractLsb' 0 8, 0x09#8, 0xFF#8, 0xFF#8, p0, p1, p2,
        chk [cmd.extractLsb' 8 8, cmd.extractLsb' 0 8, 0x09#8, 0xFF#8, 0xFF#8, p0, p1, p2]]) ∧
  enc 0x6233#16 0x00#8 0x00#8 0x00#8 =
    [0x62#8, 0x33#8, 0x09#8, 0xFF#8, 0xFF#8, 0x00#8, 0x00#8, 0x00#8, 0x58#8]

/-- R112, R103 (marked derived by the spec): every frame the FC builds has nine bytes and passes its own
checksum, and the two address bytes cancel. -/
def Obligations.BuiltFramesPassTheirChecksum : Prop :=
  ∀ (cmd : Word16) (p0 p1 p2 : Byte),
    (enc cmd p0 p1 p2).length = 9 ∧
    (enc cmd p0 p1 p2).getLast? = some (chk ((enc cmd p0 p1 p2).take 8)) ∧
    (enc cmd p0 p1 p2).getLast? =
      some (cmd.extractLsb' 8 8 ^^^ cmd.extractLsb' 0 8 ^^^ 0x09#8 ^^^ p0 ^^^ p1 ^^^ p2)

/-! ### F_DECODE -/

/-- R121: the checks in the spec's order, each failing one with its code, for every number of bytes read; the
spec's example. -/
def Obligations.DecodeChecksInOrder : Prop :=
  (∀ (G : List Byte) (exp : Word16) (hdr : Bool), G.length < 9 → fDecode G exp hdr = .error 2#3) ∧
  (∀ (G : Vector Byte 9) (exp : Word16) (hdr : Bool),
    (G[0] ≠ exp.extractLsb' 8 8 → fDecode G.toList exp hdr = .error 3#3) ∧
    (G[0] = exp.extractLsb' 8 8 → G[1] ≠ exp.extractLsb' 0 8 → fDecode G.toList exp hdr = .error 3#3) ∧
    (G[0] = exp.extractLsb' 8 8 → G[1] = exp.extractLsb' 0 8 → hdr = true →
      (G[2] ≠ 0x09#8 ∨ G[3] ≠ 0xFF#8 ∨ G[4] ≠ 0xFF#8) → fDecode G.toList exp hdr = .error 3#3) ∧
    (G[0] = exp.extractLsb' 8 8 → G[1] = exp.extractLsb' 0 8 →
      (hdr = false ∨ (G[2] = 0x09#8 ∧ G[3] = 0xFF#8 ∧ G[4] = 0xFF#8)) →
      G[8] ≠ chk (G.toList.take 8) → fDecode G.toList exp hdr = .error 4#3) ∧
    (G[0] = exp.extractLsb' 8 8 → G[1] = exp.extractLsb' 0 8 →
      (hdr = false ∨ (G[2] = 0x09#8 ∧ G[3] = 0xFF#8 ∧ G[4] = 0xFF#8)) →
      G[8] = chk (G.toList.take 8) → fDecode G.toList exp hdr = .ok (G[5] ++ G[6]))) ∧
  fDecode [0x62#8, 0x33#8, 0x09#8, 0xFF#8, 0xFF#8, 0x00#8, 0x64#8, 0x00#8, 0x3C#8] 0x6233#16 false =
    .ok 0x0064#16

/-- R123 (marked derived by the spec): the acceptance condition, with the distance it gives. -/
def Obligations.FrameAcceptedIff : Prop :=
  ∀ (G : List Byte) (exp : Word16) (hdr : Bool) (d : Word16), fDecode G exp hdr = .ok d ↔
    ∃ F : Vector Byte 9, G = F.toList ∧ F[0] ++ F[1] = exp ∧
      (hdr = false ∨ (F[2] = 0x09#8 ∧ F[3] = 0xFF#8 ∧ F[4] = 0xFF#8)) ∧
      F[8] = chk (F.toList.take 8) ∧ d = F[5] ++ F[6]

/-! ### Reset -/

/-- R230, R232 (decisions D9, D11, D26): what reset leaves. `DV`, `DR`, `BUF`, `EXP` are free and `LINK_IN` is
any sequence (log 5, 6, 7): nothing is said of them. The model's choices: the spec lets `HDR` hold either value
of P_HDR_CHECK and the command table be any, and State.reset holds the defaults of both (log 8, 9). -/
def Obligations.ResetStateAsSpecified : Prop :=
  State.reset.ph = .idle ∧ State.reset.cnt = 0#4 ∧ State.reset.acc = 0x00#8 ∧ State.reset.st = 0#3 ∧
  State.reset.av = false ∧ State.reset.hdr = Config.hdrCheck ∧ State.reset.flt = none ∧
  State.reset.txlog = [] ∧ State.reset.cmdTable = Config.defaultCmdTable

/-- R231 (decision D26): RESET, allowed in an open window; `BUF`, `EXP`, `LINK_IN`, `TXLOG`, `FLT` stay. The
draws are whatever they are (log 5). -/
def Obligations.ResetRestoresIdle : Prop :=
  ∀ s : State,
    (∀ r, s.flt = some r → exec .reset s = .fault (.stuck r)) ∧
    (s.flt = none → exec .reset s = .next { s with
      ph := .idle, cnt := 0#4, acc := 0x00#8, st := 0#3, av := false
      dv := Config.dvReset s.draws, dr := Config.drReset s.draws, draws := s.draws + 1
      ret := some (.done .unit) })

/-! ### Transmit and arm -/

/-- R111 (decision D14): TX_FRAME sends the frame ENC builds from any id and any parameter bytes, and changes
no register. -/
def Obligations.TxFrameSendsAnyFrame : Prop :=
  ∀ (cmd : Word16) (p0 p1 p2 : Byte), Answers (.txFrame cmd p0 p1 p2) fun s =>
    { s with
      txlog := s.txlog ++ [cmd.extractLsb' 8 8, cmd.extractLsb' 0 8, 0x09#8, 0xFF#8, 0xFF#8, p0, p1, p2,
        chk [cmd.extractLsb' 8 8, cmd.extractLsb' 0 8, 0x09#8, 0xFF#8, 0xFF#8, p0, p1, p2]]
      ret := some (.done .unit) }

/-- R124 (decision D4): RX_ARM opens a window and flushes nothing. R242 (decision D5; log 23, the model's
reading): its return to the host is a step of its own, taken once the window has closed, and that step writes
nothing of the FC; before that no step of the FC's own returns it. -/
def Obligations.RxArmOpensAWindow : Prop :=
  (∀ e : Word16, Answers (.rxArm e) fun s =>
    { s with exp := e, cnt := 0#4, acc := 0x00#8, ph := .rx, waiting := some .rxArm, ret := none }) ∧
  ∀ s : State, s.flt = none → s.waiting = some .rxArm →
    (s.ph = .idle → step s = .next { s with waiting := none, ret := some (.done .unit) }) ∧
    (s.ph = .rx → s.inputs = [] → step s = .next s)

/-! ### The receiver -/

/-- R125 (decisions D4, D16): each of bytes 0..7 goes to `BUF[CNT]` and is folded into `ACC`. -/
def Obligations.RxByteStoresAndFolds : Prop :=
  ∀ (s : State) (b : Byte) (rest : List Byte) (h : s.cnt.toNat < 8),
    s.flt = none → s.ph = .rx → s.linkIn = b :: rest →
    exec (.rxByte b) s = .next { s with
      linkIn := rest, buf := s.buf.set s.cnt.toNat b, acc := s.acc ^^^ b, cnt := s.cnt + 1#4
      ret := some (.done .unit) }

/-- R131, R132 (with R125, R126 for the transfer): the 9th byte is not folded and closes the window. An
accepted frame loads its distance into `DV` and `DR` and sets `AV`; a rejected one writes only `ST`. -/
def Obligations.NinthByteClosesTheWindow : Prop :=
  ∀ (s : State) (b : Byte) (rest : List Byte),
    s.flt = none → s.ph = .rx → s.cnt = 8#4 → s.linkIn = b :: rest →
    (∀ d, fDecode (s.buf.set 8 b).toList s.exp s.hdr = .ok d →
      d = s.buf[5] ++ s.buf[6] ∧
      exec (.rxByte b) s = .next { s with
        linkIn := rest, buf := s.buf.set 8 b, cnt := 9#4
        dv := d, dr := d, av := true, st := 1#3, ph := .idle, ret := some (.done .unit) }) ∧
    (∀ e, fDecode (s.buf.set 8 b).toList s.exp s.hdr = .error e →
      exec (.rxByte b) s = .next { s with
        linkIn := rest, buf := s.buf.set 8 b, cnt := 9#4
        st := e, ph := .idle, ret := some (.done .unit) })

/-- R127 (decision D5): RX_TIMEOUT ends an open window as a short read, at any count. -/
def Obligations.RxTimeoutIsAShortRead : Prop :=
  ∀ s : State, s.flt = none → s.ph = .rx → s.cnt < 9#4 →
    exec .rxTimeout s = .next { s with st := 2#3, ph := .idle, ret := some (.done .unit) }

/-- R128 (decision D4; log 17 for the byte that is not the head): line events that are not enabled change
nothing. The closed window and the full one are the same to them. -/
def Obligations.DisabledLineEventsHaveNoStep : Prop :=
  ∀ s : State, s.flt = none →
    (∀ b, (s.ph = .idle ∨ 9#4 ≤ s.cnt ∨ s.linkIn = [] ∨ (∃ x rest, s.linkIn = x :: rest ∧ x ≠ b)) →
      exec (.rxByte b) s = .next { s with ret := some .noStep }) ∧
    ((s.ph = .idle ∨ 9#4 ≤ s.cnt) → exec .rxTimeout s = .next { s with ret := some .noStep })

/-- R133 (marked derived by the spec): arming a window and handing over nine bytes one at a time has exactly
the effect of F_DECODE on the nine bytes; bytes behind them stay in `LINK_IN`. -/
def Obligations.SerialReceiverComputesDecode : Prop :=
  ∀ (s : State) (e : Word16) (F : Vector Byte 9) (rest : List Byte),
    s.flt = none → s.ph = .idle → s.linkIn = F.toList ++ rest →
    execAll (.rxArm e :: F.toList.map .rxByte) s =
      .next (judged (fDecode F.toList e s.hdr)
        (filled F { s with exp := e, linkIn := rest, waiting := some .rxArm, ret := some (.done .unit) }))

/-- R133, R127 (marked derived by the spec): a window that takes fewer than nine bytes and is timed out
records what F_DECODE gives for them, a short read, and touches no reading. -/
def Obligations.ShortWindowRecordsShortRead : Prop :=
  ∀ (s : State) (e : Word16) (g rest : List Byte), g.length < 9 →
    s.flt = none → s.ph = .idle → s.linkIn = g ++ rest →
    ∃ t, execAll (.rxArm e :: (g.map .rxByte ++ [.rxTimeout])) s = .next t ∧
      fDecode g e s.hdr = .error t.st ∧ t.cnt.toNat = g.length ∧ t.acc = chk (g.take 8) ∧
      t.buf.toList.take g.length = g ∧ t.buf.toList.drop g.length = s.buf.toList.drop g.length ∧
      t = { s with
        exp := e, linkIn := rest, ph := .idle, st := 2#3, waiting := some .rxArm, ret := some (.done .unit)
        cnt := t.cnt, acc := t.acc, buf := t.buf }

/-- R113 (marked derived by the spec; source property 4): for every distance and every third parameter byte,
a window armed with 0x6233 that receives the frame ENC builds accepts it, whatever `HDR` is. -/
def Obligations.DistanceRoundTrip : Prop :=
  ∀ (s : State) (d : Word16) (x : Byte) (rest : List Byte),
    s.flt = none → s.ph = .idle →
    s.linkIn = enc 0x6233#16 (d.extractLsb' 8 8) (d.extractLsb' 0 8) x ++ rest →
    ∃ t, execAll (.rxArm 0x6233#16 ::
        (enc 0x6233#16 (d.extractLsb' 8 8) (d.extractLsb' 0 8) x).map .rxByte) s = .next t ∧
      t.dv = d ∧ t.dr = d ∧ t.av = true ∧ t.st = 1#3 ∧ t.ph = .idle ∧ t.linkIn = rest

/-- The report rows (R65, R130 to R132; log 14, 15): in a freshly armed window with nothing waiting, the nine
bytes are taken and judged by F_DECODE; with no window open they stay in `LINK_IN` behind what waits there
(R45); and in an empty window the row is the run of nine RX_BYTE events of R72. The model's choice: the outcome
reported is done(), with no window open too (log 14). -/
def Obligations.ReportRowsAreTakenAndJudged : Prop :=
  ∀ (i : Instr) (F : Vector Byte 9),
    ((∃ len ah al d p2 c, i = .distanceReport len ah al d p2 c ∧ F.toList = report len ah al d p2 c) ∨
      (∃ d p2 c, i = .distanceReportHdr d p2 c ∧ F.toList = report 0x09#8 0xFF#8 0xFF#8 d p2 c)) →
    ∀ s : State, s.flt = none →
      (s.ph = .rx → s.cnt = 0#4 → s.acc = 0x00#8 → s.linkIn = [] →
        exec i s = .next (judged (fDecode F.toList s.exp s.hdr)
          (filled F { s with ret := some (.done .unit) }))) ∧
      (s.ph = .idle → exec i s = .next { s with
        linkIn := s.linkIn ++ F.toList, ret := some (.done .unit) }) ∧
      (s.ph = .rx → s.cnt = 0#4 → s.linkIn = [] →
        execAll (F.toList.map .rxByte) { s with linkIn := F.toList } = exec i s)

/-! ### The reading -/

/-- R152 (decision D12), issue step: READ_DISTANCE sends the request, arms the window with the same id, and
waits, in one atomic step. -/
def Obligations.ReadDistanceIssues : Prop :=
  ∀ s : State, s.cmdTable = Config.defaultCmdTable →
    Guarded .readDistance s ∧
    (s.flt = none → s.ph = .idle → exec .readDistance s = .next { s with
      txlog := s.txlog ++ [0x62#8, 0x33#8, 0x09#8, 0xFF#8, 0xFF#8, 0x00#8, 0x00#8, 0x00#8, 0x58#8]
      exp := 0x6233#16, cnt := 0#4, acc := 0x00#8, ph := .rx, waiting := some .readDistance, ret := none })

/-- R152 (decision D12), completion step: once the window has closed, READ_DISTANCE returns `DV`, and neither
the FC nor the pending inputs change. Before that, a step does not complete it. -/
def Obligations.ReadDistanceReturnsTheReading : Prop :=
  ∀ s : State, s.flt = none → s.waiting = some .readDistance →
    (s.ph = .idle → step s = .next { s with waiting := none, ret := some (.done (.distance s.dv)) }) ∧
    (s.ph = .rx → s.inputs = [] → step s = .next s)

/-- R73 (its equality marked derived by the spec): READ_DISTANCE's issue step is TX_FRAME 0x6233 with zero
parameters, then RX_ARM 0x6233; only the operation the host waits for differs, in the model's own `waiting`
(log 3, 23). -/
def Obligations.ReadDistanceIsTxFrameThenRxArm : Prop :=
  ∀ s : State, s.cmdTable = Config.defaultCmdTable → s.flt = none → s.ph = .idle →
    ∃ t, execAll [.txFrame 0x6233#16 0x00#8 0x00#8 0x00#8, .rxArm 0x6233#16] s = .next t ∧
      exec .readDistance s = .next { t with waiting := some .readDistance }

/-- R153: AVAIL returns the flag without side effects; it is 0 after RESET, and 1 after an accepted frame. -/
def Obligations.AvailReturnsTheFlag : Prop :=
  decode .opCode [0x04#8] = .ok (.avail, []) ∧
  Answers .avail (fun s => { s with ret := some (.done (.flag s.av)) }) ∧
  (∀ s t : State, exec .reset s = .next t → exec .avail t = .next (returned (.flag false) t)) ∧
  (∀ (s : State) (d : Word16), s.flt = none →
    exec .avail (judged (.ok d) s) = .next (returned (.flag true) (judged (.ok d) s)))

/-- R154: GET_DISTANCE returns `DV` and clears `AV`, whatever `AV` was; before any accepted frame it returns
the reset draw. -/
def Obligations.GetDistanceConsumes : Prop :=
  decode .opCode [0x05#8] = .ok (.getDistance, []) ∧
  Answers .getDistance (fun s => { s with av := false, ret := some (.done (.distance s.dv)) }) ∧
  (∀ s t : State, exec .reset s = .next t →
    exec .getDistance t = .next (returned (.distance (Config.dvReset s.draws)) t))

/-- R155: GET_LAST returns `DR` and never changes `AV`; where the registers agree it returns what GET_DISTANCE
would; before any accepted frame it returns the other reset draw. -/
def Obligations.GetLastReadsWithoutConsuming : Prop :=
  decode .opCode [0x06#8] = .ok (.getLast, []) ∧
  Answers .getLast (fun s => { s with ret := some (.done (.distance s.dr)) }) ∧
  (∀ (s : State) (d : Word16), s.flt = none →
    exec .getLast (judged (.ok d) s) = .next (returned (.distance d) (judged (.ok d) s)) ∧
    exec .getDistance (judged (.ok d) s) =
      .next (returned (.distance d) { judged (.ok d) s with av := false })) ∧
  (∀ s t : State, exec .reset s = .next t →
    exec .getLast t = .next (returned (.distance (Config.drReset s.draws)) t))

/-- R156 (decision D29): GET_STATUS returns `ST` and changes nothing; after RESET it returns 0, after a
timeout 2. -/
def Obligations.GetStatusReturnsTheCode : Prop :=
  Answers .getStatus (fun s => { s with ret := some (.done (.status s.st)) }) ∧
  (∀ s t : State, exec .reset s = .next t → exec .getStatus t = .next (returned (.status 0#3) t)) ∧
  (∀ s t : State, s.ph = .rx → s.cnt < 9#4 → exec .rxTimeout s = .next t →
    exec .getStatus t = .next (returned (.status 2#3) t))

/-- R157 (marked derived by the spec; source property 6): after an accepted frame with distance `V`, AVAIL
returns 1, GET_LAST `V`, the first GET_DISTANCE `V`, AVAIL then 0, and a second GET_DISTANCE `V` again. -/
def Obligations.ReadingIsConsumedOnce : Prop :=
  ∀ (s : State) (V : Word16), s.flt = none → s.ph = .idle → s.av = true → s.dv = V → s.dr = V →
    (∀ t, execAll [.avail] s = .next t → t.ret = some (.done (.flag true))) ∧
    (∀ t, execAll [.avail, .getLast] s = .next t → t.ret = some (.done (.distance V))) ∧
    (∀ t, execAll [.avail, .getLast, .getDistance] s = .next t → t.ret = some (.done (.distance V))) ∧
    (∀ t, execAll [.avail, .getLast, .getDistance, .avail] s = .next t →
      t.ret = some (.done (.flag false))) ∧
    ∃ t, execAll [.avail, .getLast, .getDistance, .avail, .getDistance] s = .next t ∧
      t.ret = some (.done (.distance V)) ∧ t.av = false

/-- R159 (marked derived by the spec): AVAIL, GET_DISTANCE, GET_LAST and READ_DISTANCE's completion cannot
tell apart two states that differ only in how the last windows went: `ST`, `CNT`, `BUF`, `ACC`, `EXP`. They end
in the same outcome, or in states that again differ only there. -/
def Obligations.FailureKindsLookAlike : Prop :=
  ∀ (s : State) (st : BitVec 3) (cnt : BitVec 4) (buf : Vector Byte 9) (acc : Byte) (exp : Word16)
    (i : Instr), i = .avail ∨ i = .getDistance ∨ i = .getLast →
    s.flt = none → s.ph = .idle → ∃ t,
      exec i s = .next t ∧
      exec i { s with st := st, cnt := cnt, buf := buf, acc := acc, exp := exp } =
        .next { t with st := st, cnt := cnt, buf := buf, acc := acc, exp := exp } ∧
      (s.waiting = some .readDistance → ∃ u,
        step s = .next u ∧
        step { s with st := st, cnt := cnt, buf := buf, acc := acc, exp := exp } =
          .next { u with st := st, cnt := cnt, buf := buf, acc := acc, exp := exp })

/-! ### Commands -/

/-- R172: CMD_RESTORE_FACTORY sends 0xFE for hard and 0xFD for soft, always, and leaves the FC as it is. -/
def Obligations.RestoreFactorySends : Prop :=
  decode .opCode [0x10#8, 0x01#8] = .ok (.cmdRestoreFactory true, []) ∧
  decode .opCode [0x10#8, 0x00#8] = .ok (.cmdRestoreFactory false, []) ∧
  Commands (.cmdRestoreFactory true) True (wire 0x39#8 0xFE#8 0x00#8 0xAC#8) ∧
  Commands (.cmdRestoreFactory false) True (wire 0x39#8 0xFD#8 0x00#8 0xAF#8)

/-- R173: CMD_CHANGE_ADDRESS rejects 0xFFFF alone; the address goes out high byte first, and bytes 3..4 stay
0xFF. -/
def Obligations.ChangeAddressSends : Prop :=
  ∀ a : Word16,
    decode .opCode [0x11#8, a.extractLsb' 8 8, a.extractLsb' 0 8] = .ok (.cmdChangeAddress a, []) ∧
    Commands (.cmdChangeAddress a) (a.toNat ≤ 0xFFFE)
      (wire 0x32#8 (a.extractLsb' 8 8) (a.extractLsb' 0 8)
        (0x59#8 ^^^ a.extractLsb' 8 8 ^^^ a.extractLsb' 0 8))

/-- R174: CMD_CHANGE_BAUD accepts codes 0..9. -/
def Obligations.ChangeBaudSends : Prop :=
  ∀ v : Byte,
    decode .opCode [0x12#8, v] = .ok (.cmdChangeBaud v, []) ∧
    Commands (.cmdChangeBaud v) (v.toNat ≤ 9) (wire 0x30#8 v 0x00#8 (0x5B#8 ^^^ v))

/-- R175: CMD_SET_UPLOAD_MODE sends 1 for auto and 0 for off, always. -/
def Obligations.SetUploadModeSends : Prop :=
  decode .opCode [0x13#8, 0x01#8] = .ok (.cmdSetUploadMode true, []) ∧
  decode .opCode [0x13#8, 0x00#8] = .ok (.cmdSetUploadMode false, []) ∧
  Commands (.cmdSetUploadMode true) True (wire 0x34#8 0x01#8 0x00#8 0x5E#8) ∧
  Commands (.cmdSetUploadMode false) True (wire 0x34#8 0x00#8 0x00#8 0x5F#8)

/-- R176: CMD_SET_UPLOAD_INTERVAL accepts 1..100. -/
def Obligations.SetUploadIntervalSends : Prop :=
  ∀ v : Byte,
    decode .opCode [0x14#8, v] = .ok (.cmdSetUploadInterval v, []) ∧
    Commands (.cmdSetUploadInterval v) (1 ≤ v.toNat ∧ v.toNat ≤ 100)
      (wire 0x35#8 v 0x00#8 (0x5E#8 ^^^ v))

/-- R177: CMD_SET_LED_MODE accepts 0..3. -/
def Obligations.SetLedModeSends : Prop :=
  ∀ v : Byte,
    decode .opCode [0x15#8, v] = .ok (.cmdSetLedMode v, []) ∧
    Commands (.cmdSetLedMode v) (v.toNat ≤ 3) (wire 0x37#8 v 0x00#8 (0x5C#8 ^^^ v))

/-- R178: CMD_SET_RELAY_MODE accepts 0 and 1. -/
def Obligations.SetRelayModeSends : Prop :=
  ∀ v : Byte,
    decode .opCode [0x16#8, v] = .ok (.cmdSetRelayMode v, []) ∧
    Commands (.cmdSetRelayMode v) (v.toNat ≤ 1) (wire 0x38#8 v 0x00#8 (0x53#8 ^^^ v))

/-- R179: CMD_SET_COMM_MODE accepts 0 and 1. -/
def Obligations.SetCommModeSends : Prop :=
  ∀ v : Byte,
    decode .opCode [0x17#8, v] = .ok (.cmdSetCommMode v, []) ∧
    Commands (.cmdSetCommMode v) (v.toNat ≤ 1) (wire 0x31#8 v 0x00#8 (0x5A#8 ^^^ v))

/-- R171: with its guard failed, no command appends a byte or changes a register, whatever the command table
holds; it returns PARAM_OUT_OF_RANGE. -/
def Obligations.FailedGuardSendsNothing : Prop :=
  ∀ (s : State) (i : Instr), s.flt = none → s.ph = .idle →
    ((∃ a : Word16, i = .cmdChangeAddress a ∧ 0xFFFE < a.toNat) ∨
      (∃ v : Byte, i = .cmdChangeBaud v ∧ 9 < v.toNat) ∨
      (∃ v : Byte, i = .cmdSetUploadInterval v ∧ (v.toNat < 1 ∨ 100 < v.toNat)) ∨
      (∃ v : Byte, i = .cmdSetLedMode v ∧ 3 < v.toNat) ∨
      (∃ v : Byte, i = .cmdSetRelayMode v ∧ 1 < v.toNat) ∨
      (∃ v : Byte, i = .cmdSetCommMode v ∧ 1 < v.toNat)) →
    exec i s = .next { s with ret := some (.done .paramOutOfRange) }

/-- R73: a command is its guard, then TX_FRAME with the id of the table in force and the parameters of its
sub-format (R64); only the returned value differs. For every command table. -/
def Obligations.CommandIsGuardThenTxFrame : Prop :=
  ∀ (s : State) (i : Instr) (id : Word16) (p0 p1 : Byte), s.flt = none → s.ph = .idle →
    ((∃ b, i = .cmdRestoreFactory b ∧ id = s.cmdTable.restoreFactory ∧
        p0 = (if b then 0xFE#8 else 0xFD#8) ∧ p1 = 0x00#8) ∨
      (∃ a : Word16, i = .cmdChangeAddress a ∧ a ≠ 0xFFFF#16 ∧ id = s.cmdTable.changeAddress ∧
        p0 = a.extractLsb' 8 8 ∧ p1 = a.extractLsb' 0 8) ∨
      (i = .cmdChangeBaud p0 ∧ p0.toNat ≤ 9 ∧ id = s.cmdTable.changeBaud ∧ p1 = 0x00#8) ∨
      (∃ b, i = .cmdSetUploadMode b ∧ id = s.cmdTable.setUploadMode ∧
        p0 = (if b then 0x01#8 else 0x00#8) ∧ p1 = 0x00#8) ∨
      (i = .cmdSetUploadInterval p0 ∧ 1 ≤ p0.toNat ∧ p0.toNat ≤ 100 ∧
        id = s.cmdTable.setUploadInterval ∧ p1 = 0x00#8) ∨
      (i = .cmdSetLedMode p0 ∧ p0.toNat ≤ 3 ∧ id = s.cmdTable.setLedMode ∧ p1 = 0x00#8) ∨
      (i = .cmdSetRelayMode p0 ∧ p0.toNat ≤ 1 ∧ id = s.cmdTable.setRelayMode ∧ p1 = 0x00#8) ∨
      (i = .cmdSetCommMode p0 ∧ p0.toNat ≤ 1 ∧ id = s.cmdTable.setCommMode ∧ p1 = 0x00#8)) →
    ∃ t, exec (.txFrame id p0 p1 0x00#8) s = .next t ∧
      exec i s = .next { t with ret := some (.done .ok) }

/-! ### Frame rows -/

/-- The command-frame rows that carry an operand (log 10, 11, 12, the model's choices): each sends its frame
under its row's guard, with the checksum of the row's formula whatever byte `c` the word held. -/
def Obligations.CommandFrameRowsSend : Prop :=
  ∀ (s : State) (a : Word16) (v c : Byte),
    Sends (.changeAddress a c) (a.toNat ≤ 0xFFFE)
      (wire 0x32#8 (a.extractLsb' 8 8) (a.extractLsb' 0 8)
        (0x59#8 ^^^ a.extractLsb' 8 8 ^^^ a.extractLsb' 0 8)) s ∧
    Sends (.changeBaud v c) (v.toNat ≤ 9) (wire 0x30#8 v 0x00#8 (0x5B#8 ^^^ v)) s ∧
    Sends (.setUploadMode v c) (v = 0x00#8 ∨ v = 0x01#8) (wire 0x34#8 v 0x00#8 (0x5F#8 ^^^ v)) s ∧
    Sends (.setUploadInterval v c) (1 ≤ v.toNat ∧ v.toNat ≤ 100)
      (wire 0x35#8 v 0x00#8 (0x5E#8 ^^^ v)) s ∧
    Sends (.setLedMode v c) (v.toNat ≤ 3) (wire 0x37#8 v 0x00#8 (0x5C#8 ^^^ v)) s ∧
    Sends (.setRelayMode v c) (v.toNat ≤ 1) (wire 0x38#8 v 0x00#8 (0x53#8 ^^^ v)) s ∧
    Sends (.setCommMode v c) (v.toNat ≤ 1) (wire 0x31#8 v 0x00#8 (0x5A#8 ^^^ v)) s

/-- The frame rows without operand (log 10, 13, the model's choices): each sends its own nine bytes. The
request opens no window. -/
def Obligations.FixedFrameRowsSend : Prop :=
  (∀ s : State, Sends .restoreFactoryHard True (encode .restoreFactoryHard) s ∧
    Sends .restoreFactorySoft True (encode .restoreFactorySoft) s) ∧
  Answers .readDistanceReq (fun s => { s with
    txlog := s.txlog ++ [0x62#8, 0x33#8, 0x09#8, 0xFF#8, 0xFF#8, 0x00#8, 0x00#8, 0x00#8, 0x58#8]
    ret := some (.done .unit) })

/-! ### Faults -/

/-- R211 (decision D15): every host operation but RESET, issued while a window is open, sets `FLT` to
CONCURRENT_OP and has no other effect. The model's choices: the fault is raised in a next state (log 20), and
the frame rows the FC sends obey the same rule (log 10). -/
def Obligations.OverlappingOperationsFault : Prop :=
  ∀ (i : Instr) (s : State), (i.isHostOp = true ∧ i ≠ .reset) ∨ i.isSentFrame = true →
    s.flt = none → s.ph = .rx →
    exec i s = .next { s with flt := some .concurrentOp, ret := some (.fault .concurrentOp) }

/-- R220 (decision D31): once `FLT` holds a reason, nothing has a step, RESET included. -/
def Obligations.FaultedCodecIsStuck : Prop :=
  ∀ (s : State) (r : FaultReason), s.flt = some r →
    (∀ i, exec i s = .fault (.stuck r)) ∧ step s = .fault (.stuck r)

/-- No instruction is refused, and the only fault is the stuck codec (R220): every instruction answers a next
state from every state whose `FLT` is none, and raises `FLT` by the concurrency rule alone (R211). The model's
choices: a disabled RX_BYTE or RX_TIMEOUT, which has `no step` in the spec (R16, R128), is a next state with the
FC unchanged (log 18), and a raised fault is a next state (log 20). -/
def Obligations.LiveCodecAlwaysRuns : Prop :=
  ∀ (i : Instr) (s : State), s.flt = none → ∃ t, exec i s = .next t ∧
    (t.flt = none ∨
      (t.flt = some .concurrentOp ∧ s.ph = .rx ∧ (i.isHostOp = true ∨ i.isSentFrame = true) ∧ i ≠ .reset))

/-! ### One step -/

/-- A step runs the instruction at the head of the pending inputs (log 1): bytes left of an op-code sequence
stay in front, a frame is used up whole. -/
def Obligations.StepRunsTheDecodedInstruction : Prop :=
  (∀ (s : State) (bs left : List Byte) (is : List Input) (i : Instr),
    s.flt = none → s.callDue = none → s.inputs = .code bs :: is →
    decode .opCode bs = .ok (i, left) →
    step s = exec i { s with inputs := if left = [] then is else .code left :: is }) ∧
  (∀ (s : State) (d : Direction) (f : Vector Byte 9) (left : List Byte) (is : List Input) (i : Instr),
    s.flt = none → s.callDue = none → s.inputs = .frame d f :: is →
    decode (.frame d) f.toList = .ok (i, left) →
    step s = exec i { s with inputs := is })

/-- A table word placed as the next input is what the next step runs, for every word the decoder reads
(log 1, 16, 22). -/
def Obligations.StepRunsTheTableWord : Prop :=
  ∀ (s : State) (nbits w : Nat) (i : Instr), s.flt = none → decodeTableWord nbits w = some i →
    step (s.withFetchWord nbits w) = exec i { s with waiting := if s.ph = .idle then none else s.waiting }

/-- R18, R35, R45: with nothing pending the FC does nothing; arriving bytes queue up behind those waiting
and change nothing else. -/
def Obligations.QuietStepsLeaveTheCodecAlone : Prop :=
  ∀ s : State, s.flt = none → s.callDue = none →
    (s.inputs = [] → step s = .next s) ∧
    (∀ bs is, s.inputs = .arrive bs :: is →
      step s = .next { s with inputs := is, linkIn := s.linkIn ++ bs })

/-! ### Invariants and whole-machine rules -/

/-- The invariants hold at reset (R230). -/
def Obligations.ResetMeetsTheInvariants : Prop :=
  State.reset.Inv ∧ State.reset.LastWindow

/-- R23, R25, R27, R29, R112, R126: every step, from any state that meets it, keeps the invariant. -/
def Obligations.StepKeepsTheInvariant : Prop :=
  ∀ s t : State, s.Inv → step s = .next t → t.Inv

/-- R23, R27, R28, R201: every step keeps the story of the last window: with no window open, `ST` says how
`CNT`, `BUF` and `EXP` came to be, and an accepted buffer still decodes to `DV`. -/
def Obligations.StepKeepsTheLastWindow : Prop :=
  ∀ s t : State, s.Inv → s.LastWindow → step s = .next t → t.LastWindow

/-- R28, R131, R132: `DV` and `DR` change only by RESET, which draws both, and by received bytes whose frame
is accepted, which write the same value to both. -/
def Obligations.ReadingChangesOnlyByAcceptance : Prop :=
  ∀ (i : Instr) (s t : State), exec i s = .next t →
    (t.dv = s.dv ∧ t.dr = s.dr) ∨
    (i = .reset ∧ t.dv = Config.dvReset s.draws ∧ t.dr = Config.drReset s.draws) ∨
    (isRx i ∧ s.ph = .rx ∧ t.ph = .idle ∧ t.st = 1#3 ∧ t.av = true ∧ t.dv = t.dr ∧
      t.dv = t.buf[5] ++ t.buf[6] ∧ fDecode t.buf.toList t.exp t.hdr = .ok t.dv)

/-- R30: `AV` is set only by an accepted frame, cleared only by GET_DISTANCE and RESET, read without side
effect by AVAIL, and left alone by a rejected frame and a short read. -/
def Obligations.AvailableFlagDiscipline : Prop :=
  ∀ (i : Instr) (s t : State), exec i s = .next t →
    (s.av = false → t.av = true → isRx i ∧ s.ph = .rx ∧ t.ph = .idle ∧ t.st = 1#3 ∧
      fDecode t.buf.toList t.exp t.hdr = .ok t.dv) ∧
    (s.av = true → t.av = false → i = .getDistance ∨ i = .reset) ∧
    (i = .avail → s.ph = .idle → t = { s with ret := some (.done (.flag s.av)) }) ∧
    ((isRx i ∨ i = .rxTimeout) → t.st ≠ 1#3 → t.av = s.av)

/-- R34, R42, R46, R112: an instruction appends to `TXLOG` nothing, or one whole frame: nine bytes with the
length tag and the broadcast address, whose checksum is right. Nothing is ever taken away. -/
def Obligations.OnlyWholeFramesAreSent : Prop :=
  ∀ (i : Instr) (s t : State), exec i s = .next t →
    t.txlog = s.txlog ∨
    ∃ F : Vector Byte 9, t.txlog = s.txlog ++ F.toList ∧
      F[2] = 0x09#8 ∧ F[3] = 0xFF#8 ∧ F[4] = 0xFF#8 ∧ F[8] = chk (F.toList.take 8) ∧
      (i.isHostOp = true ∨ i.isSentFrame = true)

/-- R45 (decision D4): `LINK_IN` is first in, first out. Only received bytes leave it, from the head and at
most as many as the open window has room for; only a device frame adds to it, at the tail. -/
def Obligations.LinkInIsAFifo : Prop :=
  ∀ (i : Instr) (s t : State), exec i s = .next t →
    ∃ taken : List Byte,
      s.linkIn ++ (if i.format = .frame .deviceToHost then encode i else []) = taken ++ t.linkIn ∧
      (taken ≠ [] → isRx i ∧ s.ph = .rx ∧ taken.length + s.cnt.toNat ≤ 9 ∧
        t.cnt.toNat = s.cnt.toNat + taken.length)

/-- R31, R12, R32 (the table of R32 is decision D3): no instruction writes `HDR` or the command table; `BUF`
changes only by received bytes; `EXP` only by RX_ARM and READ_DISTANCE; `ST` only by received bytes, timeout
and RESET; `PH`, `CNT` and `ACC` only by those, RX_ARM and READ_DISTANCE. -/
def Obligations.AccessSummaryHolds : Prop :=
  ∀ (i : Instr) (s t : State), exec i s = .next t →
    t.hdr = s.hdr ∧ t.cmdTable = s.cmdTable ∧ t.inputs = s.inputs ∧
    (t.buf ≠ s.buf → isRx i) ∧
    (t.exp ≠ s.exp → (∃ e, i = .rxArm e) ∨ i = .readDistance) ∧
    (t.st ≠ s.st → isRx i ∨ i = .rxTimeout ∨ i = .reset) ∧
    (t.ph ≠ s.ph → isRx i ∨ i = .rxTimeout ∨ i = .reset ∨ (∃ e, i = .rxArm e) ∨ i = .readDistance) ∧
    (t.cnt ≠ s.cnt ∨ t.acc ≠ s.acc →
      isRx i ∨ i = .reset ∨ (∃ e, i = .rxArm e) ∨ i = .readDistance)

/-- R242, R129, R152 (decisions D5, D12): while a window is open no step ends the host's wait; and in every run
that meets the fairness assumption TimeoutFair, a premise named here (log 26), every window ends and every
READ_DISTANCE and RX_ARM returns. The model's choices: the return is the very next step after the first state with
no window open, before any pending input, and it comes after a RESET inside the wait too, READ_DISTANCE then
returning the `DV` that RESET drew (log 3); RX_ARM's return is a step of its own (log 23). -/
def Obligations.WaitsEndUnderTheFairnessAssumption : Prop :=
  (∀ s t : State, step s = .next t → s.ph = .rx → t.waiting = s.waiting) ∧
  ∀ r : Nat → State, Run r → (r 0).Inv → TimeoutFair r →
    (∀ n, (r n).ph = .rx → ∃ m, n < m ∧ (r m).ph = .idle) ∧
    ∀ (n : Nat) (c : Call), (r n).waiting = some c → ∃ m, n ≤ m ∧
      (∀ k, n ≤ k → k < m → (r k).ph = .rx ∧ (r k).waiting = some c) ∧
      (r m).ph = .idle ∧ (r m).waiting = some c ∧
      (r (m + 1)).waiting = none ∧
      (r (m + 1)).ret = some (.done (match c with
        | .rxArm => .unit
        | .readDistance => .distance (r m).dv))
end

