-- ==== Sys2Proof/Laws/Word.lean ====
section
/-! SUPPORT. The laws of field assembly, of the XOR-fold and of the validator. -/

namespace Sys2Proof.Machine

/-! ### Big-endian halves -/

@[simp] theorem hiByte_be16 (h l : Byte) : hiByte (be16 h l) = h := by
  ext k hk
  rw [hiByte, be16, BitVec.getElem_extractLsb']
  exact (BitVec.getLsbD_append (x := h) (y := l)).trans (by simp [BitVec.getLsbD_eq_getElem hk])

@[simp] theorem loByte_be16 (h l : Byte) : loByte (be16 h l) = l := by
  ext k hk
  rw [loByte, be16, BitVec.getElem_extractLsb']
  exact (BitVec.getLsbD_append (x := h) (y := l)).trans (by simp [hk])

@[simp] theorem be16_hiByte_loByte (w : Word16) : be16 (hiByte w) (loByte w) = w := by
  unfold be16
  ext k hk
  rw [BitVec.getElem_append]
  by_cases h8 : k < 8
  · simp [h8, loByte, BitVec.getLsbD_eq_getElem hk]
  · have : 8 + (k - 8) = k := by omega
    simp [h8, hiByte, this, BitVec.getLsbD_eq_getElem hk]

theorem be16_eq_iff (h l : Byte) (w : Word16) : be16 h l = w ↔ h = hiByte w ∧ l = loByte w := by
  constructor
  · rintro rfl; simp
  · rintro ⟨rfl, rfl⟩; simp

/-! ### The XOR-fold (R100) -/

theorem foldl_xor_start (bs : List Byte) (a : Byte) : bs.foldl (· ^^^ ·) a = a ^^^ chk bs := by
  induction bs generalizing a with
  | nil => simp [chk]
  | cons b bs ih =>
    have h0 : chk (b :: bs) = b ^^^ chk bs := by rw [chk, List.foldl_cons, ih]; simp
    rw [List.foldl_cons, ih, h0, BitVec.xor_assoc]

@[simp] theorem chk_empty : chk [] = 0x00#8 := rfl

@[simp] theorem chk_head (b : Byte) (bs : List Byte) : chk (b :: bs) = b ^^^ chk bs := by
  rw [chk, List.foldl_cons, foldl_xor_start]; simp

theorem chk_join (bs cs : List Byte) : chk (bs ++ cs) = chk bs ^^^ chk cs := by
  rw [chk, List.foldl_append, foldl_xor_start]; rfl

/-- Bit `k` of the fold is the parity of bit column `k`. -/
theorem chk_column (bs : List Byte) (k : Nat) :
    (chk bs).getLsbD k = decide (bs.countP (·.getLsbD k) % 2 = 1) := by
  induction bs with
  | nil => simp
  | cons b bs ih =>
    rw [chk_head, BitVec.getLsbD_xor, ih, List.countP_cons]
    rcases Nat.mod_two_eq_zero_or_one (bs.countP (·.getLsbD k)) with h | h <;>
      cases b.getLsbD k <;> simp [Nat.add_mod, h]

/-- The fold of a byte-wise error pattern (R104). -/
theorem chk_zipWith (bs cs : List Byte) (h : bs.length = cs.length) :
    chk (List.zipWith (· ^^^ ·) bs cs) = chk bs ^^^ chk cs := by
  induction bs generalizing cs with
  | nil => cases cs <;> simp_all
  | cons b bs ih =>
    cases cs with
    | nil => simp at h
    | cons c cs =>
      rw [List.zipWith_cons_cons, chk_head, ih cs (by simpa using h), chk_head, chk_head]
      ac_rfl

/-! ### Nine bytes -/

/-- A nine-byte buffer, byte by byte. -/
theorem toList_nine (F : Vector Byte 9) :
    F.toList = [F[0], F[1], F[2], F[3], F[4], F[5], F[6], F[7], F[8]] := by
  apply List.ext_getElem (by simp)
  intro i h _
  rw [Vector.length_toList] at h
  rcases i with _ | _ | _ | _ | _ | _ | _ | _ | _ | i <;> simp
  omega

/-! ### The frame encoder (R110) -/

theorem enc_bytes (cmd : Word16) (p0 p1 p2 : Byte) :
    enc cmd p0 p1 p2 = [hiByte cmd, loByte cmd, 0x09#8, 0xFF#8, 0xFF#8, p0, p1, p2,
      chk [hiByte cmd, loByte cmd, 0x09#8, 0xFF#8, 0xFF#8, p0, p1, p2]] := rfl

@[simp] theorem enc_length (cmd : Word16) (p0 p1 p2 : Byte) : (enc cmd p0 p1 p2).length = 9 := rfl

/-! ### The validator (R121) -/

/-- F_DECODE on nine bytes. -/
theorem fDecode_nine (g0 g1 g2 g3 g4 g5 g6 g7 g8 : Byte) (e : Word16) (hdr : Bool) :
    fDecode [g0, g1, g2, g3, g4, g5, g6, g7, g8] e hdr =
      if g0 ≠ hiByte e then .error stMalformed
      else if g1 ≠ loByte e then .error stMalformed
      else if headerOk hdr g2 g3 g4 = false then .error stMalformed
      else if g8 ≠ chk [g0, g1, g2, g3, g4, g5, g6, g7] then .error stChecksumMismatch
      else .ok (be16 g5 g6) := rfl

/-- F_DECODE on any other number of bytes. -/
theorem fDecode_of_length_ne (g : List Byte) (e : Word16) (hdr : Bool) (h : g.length ≠ 9) :
    fDecode g e hdr = .error stShortRead := by
  unfold fDecode
  split
  · simp at h
  · rfl

/-- On nine bytes F_DECODE never answers a short read, and never OK as an error. -/
theorem fDecode_error_of_length (g : List Byte) (e : Word16) (hdr : Bool) (c : BitVec 3)
    (h : g.length = 9) (he : fDecode g e hdr = .error c) : c = stMalformed ∨ c = stChecksumMismatch := by
  unfold fDecode at he
  split at he
  · repeat' split at he
    all_goals first
      | exact .inl (Except.error.inj he).symm
      | exact .inr (Except.error.inj he).symm
      | cases he
  · rename_i hne
    match g, h with
    | [g0, g1, g2, g3, g4, g5, g6, g7, g8], _ => exact absurd rfl (hne g0 g1 g2 g3 g4 g5 g6 g7 g8)

/-- What an accepted frame's distance is. -/
theorem fDecode_ok (g : List Byte) (e : Word16) (hdr : Bool) (d : Word16) (h : fDecode g e hdr = .ok d) :
    ∃ g0 g1 g2 g3 g4 g5 g6 g7 g8, g = [g0, g1, g2, g3, g4, g5, g6, g7, g8] ∧ be16 g0 g1 = e ∧
      headerOk hdr g2 g3 g4 = true ∧ g8 = chk [g0, g1, g2, g3, g4, g5, g6, g7] ∧ d = be16 g5 g6 := by
  unfold fDecode at h
  split at h
  · rename_i g0 g1 g2 g3 g4 g5 g6 g7 g8
    split_ifs at h with h0 h1 h2 h3
    simp only [not_not] at h0 h1 h3
    refine ⟨g0, g1, g2, g3, g4, g5, g6, g7, g8, rfl, (be16_eq_iff ..).2 ⟨h0, h1⟩, by simpa using h2, h3, ?_⟩
    exact (Except.ok.inj h).symm
  · cases h

end Sys2Proof.Machine
end

