-- ==== Sys2Proof/Laws/Decode.lean ====
section
/-! SUPPORT. One lemma per reader of the decoder: if it answers an instruction, the bytes were exactly its
operands and the rest. -/

namespace Sys2Proof

open Sys2Proof.Machine (be16 hiByte loByte)

theorem readByte_ok {k : Byte → Instr} {bs rest : List Byte} {i : Instr} (h : readByte k bs = .ok (i, rest)) :
    ∃ v, bs = v :: rest ∧ i = k v := by
  unfold readByte at h
  split at h
  · simp only [Except.ok.injEq, Prod.mk.injEq] at h
    obtain ⟨rfl, rfl⟩ := h
    exact ⟨_, rfl, rfl⟩
  · cases h

theorem readWord_ok {k : Word16 → Instr} {bs rest : List Byte} {i : Instr}
    (h : readWord k bs = .ok (i, rest)) : ∃ w, bs = hiByte w :: loByte w :: rest ∧ i = k w := by
  unfold readWord at h
  split at h
  · simp only [Except.ok.injEq, Prod.mk.injEq] at h
    obtain ⟨rfl, rfl⟩ := h
    exact ⟨_, by simp, rfl⟩
  · cases h

theorem readBool_ok {op : Byte} {k : Bool → Instr} {bs rest : List Byte} {i : Instr}
    (h : readBool op k bs = .ok (i, rest)) :
    ∃ b, bs = (if b then 0x01#8 else 0x00#8) :: rest ∧ i = k b := by
  unfold readBool at h
  split at h
  · split_ifs at h with h1 h0
    · simp only [Except.ok.injEq, Prod.mk.injEq] at h
      obtain ⟨rfl, rfl⟩ := h
      exact ⟨true, by simp [h1], rfl⟩
    · simp only [Except.ok.injEq, Prod.mk.injEq] at h
      obtain ⟨rfl, rfl⟩ := h
      exact ⟨false, by simp [h0], rfl⟩
  · cases h

theorem readFrameArgs_ok {k : Word16 → Byte → Byte → Byte → Instr} {bs rest : List Byte} {i : Instr}
    (h : readFrameArgs k bs = .ok (i, rest)) :
    ∃ w p0 p1 p2, bs = hiByte w :: loByte w :: p0 :: p1 :: p2 :: rest ∧ i = k w p0 p1 p2 := by
  unfold readFrameArgs at h
  split at h
  · simp only [Except.ok.injEq, Prod.mk.injEq] at h
    obtain ⟨rfl, rfl⟩ := h
    exact ⟨_, _, _, _, by simp, rfl⟩
  · cases h

/-- A row `sentRow` answers is written with these very bytes. -/
theorem sentRow_some {l f5 f6 f8 : Byte} {i : Instr} (h : sentRow l f5 f6 f8 = some i) :
    i.format = .frame .hostToDevice ∧ WellFormed i ∧ encode i = sentBytes l f5 f6 f8 := by
  unfold sentRow at h
  by_cases h32 : l = 0x32#8
  · simp only [h32, if_true, Option.some.injEq] at h
    subst h h32
    exact ⟨rfl, rfl, by simp [encode]⟩
  by_cases h0 : f6 = 0x00#8
  · subst h0
    simp only [h32, if_false, ne_eq, not_true_eq_false] at h
    split_ifs at h with h1 h2 h3 h4 h5 h6 h7 h8 h9
    all_goals
      simp only [Option.some.injEq] at h
      subst h
    all_goals first
      | (subst l; exact ⟨rfl, rfl, rfl⟩)
      | (obtain ⟨rfl, rfl, rfl⟩ := h7; exact ⟨rfl, rfl, rfl⟩)
      | (obtain ⟨rfl, rfl, rfl⟩ := h8; exact ⟨rfl, rfl, rfl⟩)
      | (obtain ⟨rfl, rfl, rfl⟩ := h9; exact ⟨rfl, rfl, rfl⟩)
  · simp [h32, h0] at h

/-- One row of a table of op codes: either it is the row taken, or the rows after it decide. -/
theorem row_or_later {c : Prop} [Decidable c] {a b : Decoded} {x : Instr × List Byte}
    (h : (if c then a else b) = .ok x) : (c ∧ a = .ok x) ∨ b = .ok x := by
  split_ifs at h with hc
  · exact .inl ⟨hc, h⟩
  · exact .inr h

/-- What an op code and the bytes after it decode to is written with these very bytes. -/
theorem decodeOp_ok {op : Byte} {bs rest : List Byte} {i : Instr} (h : decodeOp op bs = .ok (i, rest)) :
    WellFormed i ∧ i.format = .opCode ∧ op :: bs = encode i ++ rest := by
  unfold decodeOp at h
  iterate 18
    rcases row_or_later h with ⟨rfl, h⟩ | h
    · first
        | (obtain ⟨_, rfl, rfl⟩ := readByte_ok h; exact ⟨rfl, rfl, rfl⟩)
        | (obtain ⟨_, rfl, rfl⟩ := readWord_ok h; exact ⟨rfl, rfl, rfl⟩)
        | (obtain ⟨_, _, _, _, rfl, rfl⟩ := readFrameArgs_ok h; exact ⟨rfl, rfl, rfl⟩)
        | (obtain ⟨_, rfl, rfl⟩ := readBool_ok h; exact ⟨rfl, rfl, rfl⟩)
        | (cases h; exact ⟨rfl, rfl, rfl⟩)
  cases h

end Sys2Proof
end

