-- ==== Sys2Proof/Laws/State.lean ====
section
/-! SUPPORT. One lemma per field per update of State, so that no later proof unfolds a record update. -/

namespace Sys2Proof.Machine.State

variable (s : State)

/-! ### `withRet` -/

@[simp] theorem withRet_ph (r : Option Report) : (s.withRet r).ph = s.ph := rfl
@[simp] theorem withRet_cnt (r : Option Report) : (s.withRet r).cnt = s.cnt := rfl
@[simp] theorem withRet_buf (r : Option Report) : (s.withRet r).buf = s.buf := rfl
@[simp] theorem withRet_acc (r : Option Report) : (s.withRet r).acc = s.acc := rfl
@[simp] theorem withRet_exp (r : Option Report) : (s.withRet r).exp = s.exp := rfl
@[simp] theorem withRet_st (r : Option Report) : (s.withRet r).st = s.st := rfl
@[simp] theorem withRet_dv (r : Option Report) : (s.withRet r).dv = s.dv := rfl
@[simp] theorem withRet_dr (r : Option Report) : (s.withRet r).dr = s.dr := rfl
@[simp] theorem withRet_av (r : Option Report) : (s.withRet r).av = s.av := rfl
@[simp] theorem withRet_hdr (r : Option Report) : (s.withRet r).hdr = s.hdr := rfl
@[simp] theorem withRet_flt (r : Option Report) : (s.withRet r).flt = s.flt := rfl
@[simp] theorem withRet_txlog (r : Option Report) : (s.withRet r).txlog = s.txlog := rfl
@[simp] theorem withRet_linkIn (r : Option Report) : (s.withRet r).linkIn = s.linkIn := rfl
@[simp] theorem withRet_cmdTable (r : Option Report) : (s.withRet r).cmdTable = s.cmdTable := rfl
@[simp] theorem withRet_draws (r : Option Report) : (s.withRet r).draws = s.draws := rfl
@[simp] theorem withRet_waiting (r : Option Report) : (s.withRet r).waiting = s.waiting := rfl
@[simp] theorem withRet_ret (r : Option Report) : (s.withRet r).ret = r := rfl
@[simp] theorem withRet_inputs (r : Option Report) : (s.withRet r).inputs = s.inputs := rfl

/-! ### `withInputs` -/

@[simp] theorem withInputs_ph (is : List Input) : (s.withInputs is).ph = s.ph := rfl
@[simp] theorem withInputs_cnt (is : List Input) : (s.withInputs is).cnt = s.cnt := rfl
@[simp] theorem withInputs_buf (is : List Input) : (s.withInputs is).buf = s.buf := rfl
@[simp] theorem withInputs_acc (is : List Input) : (s.withInputs is).acc = s.acc := rfl
@[simp] theorem withInputs_exp (is : List Input) : (s.withInputs is).exp = s.exp := rfl
@[simp] theorem withInputs_st (is : List Input) : (s.withInputs is).st = s.st := rfl
@[simp] theorem withInputs_dv (is : List Input) : (s.withInputs is).dv = s.dv := rfl
@[simp] theorem withInputs_dr (is : List Input) : (s.withInputs is).dr = s.dr := rfl
@[simp] theorem withInputs_av (is : List Input) : (s.withInputs is).av = s.av := rfl
@[simp] theorem withInputs_hdr (is : List Input) : (s.withInputs is).hdr = s.hdr := rfl
@[simp] theorem withInputs_flt (is : List Input) : (s.withInputs is).flt = s.flt := rfl
@[simp] theorem withInputs_txlog (is : List Input) : (s.withInputs is).txlog = s.txlog := rfl
@[simp] theorem withInputs_linkIn (is : List Input) : (s.withInputs is).linkIn = s.linkIn := rfl
@[simp] theorem withInputs_cmdTable (is : List Input) : (s.withInputs is).cmdTable = s.cmdTable := rfl
@[simp] theorem withInputs_draws (is : List Input) : (s.withInputs is).draws = s.draws := rfl
@[simp] theorem withInputs_waiting (is : List Input) : (s.withInputs is).waiting = s.waiting := rfl
@[simp] theorem withInputs_ret (is : List Input) : (s.withInputs is).ret = s.ret := rfl
@[simp] theorem withInputs_inputs (is : List Input) : (s.withInputs is).inputs = is := rfl

/-! ### `raise` -/

@[simp] theorem raise_ph (r : FaultReason) : (s.raise r).ph = s.ph := rfl
@[simp] theorem raise_cnt (r : FaultReason) : (s.raise r).cnt = s.cnt := rfl
@[simp] theorem raise_buf (r : FaultReason) : (s.raise r).buf = s.buf := rfl
@[simp] theorem raise_acc (r : FaultReason) : (s.raise r).acc = s.acc := rfl
@[simp] theorem raise_exp (r : FaultReason) : (s.raise r).exp = s.exp := rfl
@[simp] theorem raise_st (r : FaultReason) : (s.raise r).st = s.st := rfl
@[simp] theorem raise_dv (r : FaultReason) : (s.raise r).dv = s.dv := rfl
@[simp] theorem raise_dr (r : FaultReason) : (s.raise r).dr = s.dr := rfl
@[simp] theorem raise_av (r : FaultReason) : (s.raise r).av = s.av := rfl
@[simp] theorem raise_hdr (r : FaultReason) : (s.raise r).hdr = s.hdr := rfl
@[simp] theorem raise_flt (r : FaultReason) : (s.raise r).flt = some r := rfl
@[simp] theorem raise_txlog (r : FaultReason) : (s.raise r).txlog = s.txlog := rfl
@[simp] theorem raise_linkIn (r : FaultReason) : (s.raise r).linkIn = s.linkIn := rfl
@[simp] theorem raise_cmdTable (r : FaultReason) : (s.raise r).cmdTable = s.cmdTable := rfl
@[simp] theorem raise_draws (r : FaultReason) : (s.raise r).draws = s.draws := rfl
@[simp] theorem raise_waiting (r : FaultReason) : (s.raise r).waiting = s.waiting := rfl
@[simp] theorem raise_ret (r : FaultReason) : (s.raise r).ret = some (.fault r) := rfl
@[simp] theorem raise_inputs (r : FaultReason) : (s.raise r).inputs = s.inputs := rfl

/-! ### `tx` -/

@[simp] theorem tx_ph (f : List Byte) : (s.tx f).ph = s.ph := rfl
@[simp] theorem tx_cnt (f : List Byte) : (s.tx f).cnt = s.cnt := rfl
@[simp] theorem tx_buf (f : List Byte) : (s.tx f).buf = s.buf := rfl
@[simp] theorem tx_acc (f : List Byte) : (s.tx f).acc = s.acc := rfl
@[simp] theorem tx_exp (f : List Byte) : (s.tx f).exp = s.exp := rfl
@[simp] theorem tx_st (f : List Byte) : (s.tx f).st = s.st := rfl
@[simp] theorem tx_dv (f : List Byte) : (s.tx f).dv = s.dv := rfl
@[simp] theorem tx_dr (f : List Byte) : (s.tx f).dr = s.dr := rfl
@[simp] theorem tx_av (f : List Byte) : (s.tx f).av = s.av := rfl
@[simp] theorem tx_hdr (f : List Byte) : (s.tx f).hdr = s.hdr := rfl
@[simp] theorem tx_flt (f : List Byte) : (s.tx f).flt = s.flt := rfl
@[simp] theorem tx_txlog (f : List Byte) : (s.tx f).txlog = s.txlog ++ f := rfl
@[simp] theorem tx_linkIn (f : List Byte) : (s.tx f).linkIn = s.linkIn := rfl
@[simp] theorem tx_cmdTable (f : List Byte) : (s.tx f).cmdTable = s.cmdTable := rfl
@[simp] theorem tx_draws (f : List Byte) : (s.tx f).draws = s.draws := rfl
@[simp] theorem tx_waiting (f : List Byte) : (s.tx f).waiting = s.waiting := rfl
@[simp] theorem tx_ret (f : List Byte) : (s.tx f).ret = s.ret := rfl
@[simp] theorem tx_inputs (f : List Byte) : (s.tx f).inputs = s.inputs := rfl

/-! ### `arm` -/

@[simp] theorem arm_ph (e : Word16) : (s.arm e).ph = .rx := rfl
@[simp] theorem arm_cnt (e : Word16) : (s.arm e).cnt = 0#4 := rfl
@[simp] theorem arm_buf (e : Word16) : (s.arm e).buf = s.buf := rfl
@[simp] theorem arm_acc (e : Word16) : (s.arm e).acc = 0x00#8 := rfl
@[simp] theorem arm_exp (e : Word16) : (s.arm e).exp = e := rfl
@[simp] theorem arm_st (e : Word16) : (s.arm e).st = s.st := rfl
@[simp] theorem arm_dv (e : Word16) : (s.arm e).dv = s.dv := rfl
@[simp] theorem arm_dr (e : Word16) : (s.arm e).dr = s.dr := rfl
@[simp] theorem arm_av (e : Word16) : (s.arm e).av = s.av := rfl
@[simp] theorem arm_hdr (e : Word16) : (s.arm e).hdr = s.hdr := rfl
@[simp] theorem arm_flt (e : Word16) : (s.arm e).flt = s.flt := rfl
@[simp] theorem arm_txlog (e : Word16) : (s.arm e).txlog = s.txlog := rfl
@[simp] theorem arm_linkIn (e : Word16) : (s.arm e).linkIn = s.linkIn := rfl
@[simp] theorem arm_cmdTable (e : Word16) : (s.arm e).cmdTable = s.cmdTable := rfl
@[simp] theorem arm_draws (e : Word16) : (s.arm e).draws = s.draws := rfl
@[simp] theorem arm_waiting (e : Word16) : (s.arm e).waiting = s.waiting := rfl
@[simp] theorem arm_ret (e : Word16) : (s.arm e).ret = s.ret := rfl
@[simp] theorem arm_inputs (e : Word16) : (s.arm e).inputs = s.inputs := rfl

/-! ### `arrive` -/

@[simp] theorem arrive_ph (bs : List Byte) : (s.arrive bs).ph = s.ph := rfl
@[simp] theorem arrive_cnt (bs : List Byte) : (s.arrive bs).cnt = s.cnt := rfl
@[simp] theorem arrive_buf (bs : List Byte) : (s.arrive bs).buf = s.buf := rfl
@[simp] theorem arrive_acc (bs : List Byte) : (s.arrive bs).acc = s.acc := rfl
@[simp] theorem arrive_exp (bs : List Byte) : (s.arrive bs).exp = s.exp := rfl
@[simp] theorem arrive_st (bs : List Byte) : (s.arrive bs).st = s.st := rfl
@[simp] theorem arrive_dv (bs : List Byte) : (s.arrive bs).dv = s.dv := rfl
@[simp] theorem arrive_dr (bs : List Byte) : (s.arrive bs).dr = s.dr := rfl
@[simp] theorem arrive_av (bs : List Byte) : (s.arrive bs).av = s.av := rfl
@[simp] theorem arrive_hdr (bs : List Byte) : (s.arrive bs).hdr = s.hdr := rfl
@[simp] theorem arrive_flt (bs : List Byte) : (s.arrive bs).flt = s.flt := rfl
@[simp] theorem arrive_txlog (bs : List Byte) : (s.arrive bs).txlog = s.txlog := rfl
@[simp] theorem arrive_linkIn (bs : List Byte) : (s.arrive bs).linkIn = s.linkIn ++ bs := rfl
@[simp] theorem arrive_cmdTable (bs : List Byte) : (s.arrive bs).cmdTable = s.cmdTable := rfl
@[simp] theorem arrive_draws (bs : List Byte) : (s.arrive bs).draws = s.draws := rfl
@[simp] theorem arrive_waiting (bs : List Byte) : (s.arrive bs).waiting = s.waiting := rfl
@[simp] theorem arrive_ret (bs : List Byte) : (s.arrive bs).ret = s.ret := rfl
@[simp] theorem arrive_inputs (bs : List Byte) : (s.arrive bs).inputs = s.inputs := rfl

/-! ### `accept` -/

@[simp] theorem accept_ph (d : Word16) : (s.accept d).ph = .idle := rfl
@[simp] theorem accept_cnt (d : Word16) : (s.accept d).cnt = s.cnt := rfl
@[simp] theorem accept_buf (d : Word16) : (s.accept d).buf = s.buf := rfl
@[simp] theorem accept_acc (d : Word16) : (s.accept d).acc = s.acc := rfl
@[simp] theorem accept_exp (d : Word16) : (s.accept d).exp = s.exp := rfl
@[simp] theorem accept_st (d : Word16) : (s.accept d).st = stOk := rfl
@[simp] theorem accept_dv (d : Word16) : (s.accept d).dv = d := rfl
@[simp] theorem accept_dr (d : Word16) : (s.accept d).dr = d := rfl
@[simp] theorem accept_av (d : Word16) : (s.accept d).av = true := rfl
@[simp] theorem accept_hdr (d : Word16) : (s.accept d).hdr = s.hdr := rfl
@[simp] theorem accept_flt (d : Word16) : (s.accept d).flt = s.flt := rfl
@[simp] theorem accept_txlog (d : Word16) : (s.accept d).txlog = s.txlog := rfl
@[simp] theorem accept_linkIn (d : Word16) : (s.accept d).linkIn = s.linkIn := rfl
@[simp] theorem accept_cmdTable (d : Word16) : (s.accept d).cmdTable = s.cmdTable := rfl
@[simp] theorem accept_draws (d : Word16) : (s.accept d).draws = s.draws := rfl
@[simp] theorem accept_waiting (d : Word16) : (s.accept d).waiting = s.waiting := rfl
@[simp] theorem accept_ret (d : Word16) : (s.accept d).ret = s.ret := rfl
@[simp] theorem accept_inputs (d : Word16) : (s.accept d).inputs = s.inputs := rfl

/-! ### `reject` -/

@[simp] theorem reject_ph (e : BitVec 3) : (s.reject e).ph = .idle := rfl
@[simp] theorem reject_cnt (e : BitVec 3) : (s.reject e).cnt = s.cnt := rfl
@[simp] theorem reject_buf (e : BitVec 3) : (s.reject e).buf = s.buf := rfl
@[simp] theorem reject_acc (e : BitVec 3) : (s.reject e).acc = s.acc := rfl
@[simp] theorem reject_exp (e : BitVec 3) : (s.reject e).exp = s.exp := rfl
@[simp] theorem reject_st (e : BitVec 3) : (s.reject e).st = e := rfl
@[simp] theorem reject_dv (e : BitVec 3) : (s.reject e).dv = s.dv := rfl
@[simp] theorem reject_dr (e : BitVec 3) : (s.reject e).dr = s.dr := rfl
@[simp] theorem reject_av (e : BitVec 3) : (s.reject e).av = s.av := rfl
@[simp] theorem reject_hdr (e : BitVec 3) : (s.reject e).hdr = s.hdr := rfl
@[simp] theorem reject_flt (e : BitVec 3) : (s.reject e).flt = s.flt := rfl
@[simp] theorem reject_txlog (e : BitVec 3) : (s.reject e).txlog = s.txlog := rfl
@[simp] theorem reject_linkIn (e : BitVec 3) : (s.reject e).linkIn = s.linkIn := rfl
@[simp] theorem reject_cmdTable (e : BitVec 3) : (s.reject e).cmdTable = s.cmdTable := rfl
@[simp] theorem reject_draws (e : BitVec 3) : (s.reject e).draws = s.draws := rfl
@[simp] theorem reject_waiting (e : BitVec 3) : (s.reject e).waiting = s.waiting := rfl
@[simp] theorem reject_ret (e : BitVec 3) : (s.reject e).ret = s.ret := rfl
@[simp] theorem reject_inputs (e : BitVec 3) : (s.reject e).inputs = s.inputs := rfl

/-! ### `storeByte` -/

@[simp] theorem storeByte_ph (b : Byte) : (s.storeByte b).ph = s.ph := rfl
@[simp] theorem storeByte_cnt (b : Byte) : (s.storeByte b).cnt = s.cnt + 1#4 := rfl
@[simp] theorem storeByte_buf (b : Byte) : (s.storeByte b).buf = s.buf.setIfInBounds s.cnt.toNat b := rfl
@[simp] theorem storeByte_acc (b : Byte) : (s.storeByte b).acc = if s.cnt < 8#4 then s.acc ^^^ b else s.acc := rfl
@[simp] theorem storeByte_exp (b : Byte) : (s.storeByte b).exp = s.exp := rfl
@[simp] theorem storeByte_st (b : Byte) : (s.storeByte b).st = s.st := rfl
@[simp] theorem storeByte_dv (b : Byte) : (s.storeByte b).dv = s.dv := rfl
@[simp] theorem storeByte_dr (b : Byte) : (s.storeByte b).dr = s.dr := rfl
@[simp] theorem storeByte_av (b : Byte) : (s.storeByte b).av = s.av := rfl
@[simp] theorem storeByte_hdr (b : Byte) : (s.storeByte b).hdr = s.hdr := rfl
@[simp] theorem storeByte_flt (b : Byte) : (s.storeByte b).flt = s.flt := rfl
@[simp] theorem storeByte_txlog (b : Byte) : (s.storeByte b).txlog = s.txlog := rfl
@[simp] theorem storeByte_linkIn (b : Byte) : (s.storeByte b).linkIn = s.linkIn.tail := rfl
@[simp] theorem storeByte_cmdTable (b : Byte) : (s.storeByte b).cmdTable = s.cmdTable := rfl
@[simp] theorem storeByte_draws (b : Byte) : (s.storeByte b).draws = s.draws := rfl
@[simp] theorem storeByte_waiting (b : Byte) : (s.storeByte b).waiting = s.waiting := rfl
@[simp] theorem storeByte_ret (b : Byte) : (s.storeByte b).ret = s.ret := rfl
@[simp] theorem storeByte_inputs (b : Byte) : (s.storeByte b).inputs = s.inputs := rfl

/-! ### `consume` -/

@[simp] theorem consume_ph : s.consume.ph = s.ph := rfl
@[simp] theorem consume_cnt : s.consume.cnt = s.cnt := rfl
@[simp] theorem consume_buf : s.consume.buf = s.buf := rfl
@[simp] theorem consume_acc : s.consume.acc = s.acc := rfl
@[simp] theorem consume_exp : s.consume.exp = s.exp := rfl
@[simp] theorem consume_st : s.consume.st = s.st := rfl
@[simp] theorem consume_dv : s.consume.dv = s.dv := rfl
@[simp] theorem consume_dr : s.consume.dr = s.dr := rfl
@[simp] theorem consume_av : s.consume.av = false := rfl
@[simp] theorem consume_hdr : s.consume.hdr = s.hdr := rfl
@[simp] theorem consume_flt : s.consume.flt = s.flt := rfl
@[simp] theorem consume_txlog : s.consume.txlog = s.txlog := rfl
@[simp] theorem consume_linkIn : s.consume.linkIn = s.linkIn := rfl
@[simp] theorem consume_cmdTable : s.consume.cmdTable = s.cmdTable := rfl
@[simp] theorem consume_draws : s.consume.draws = s.draws := rfl
@[simp] theorem consume_waiting : s.consume.waiting = s.waiting := rfl
@[simp] theorem consume_ret : s.consume.ret = s.ret := rfl
@[simp] theorem consume_inputs : s.consume.inputs = s.inputs := rfl

/-! ### `resetOp` -/

@[simp] theorem resetOp_ph : s.resetOp.ph = .idle := rfl
@[simp] theorem resetOp_cnt : s.resetOp.cnt = 0#4 := rfl
@[simp] theorem resetOp_buf : s.resetOp.buf = s.buf := rfl
@[simp] theorem resetOp_acc : s.resetOp.acc = 0x00#8 := rfl
@[simp] theorem resetOp_exp : s.resetOp.exp = s.exp := rfl
@[simp] theorem resetOp_st : s.resetOp.st = stNone := rfl
@[simp] theorem resetOp_dv : s.resetOp.dv = Config.dvReset s.draws := rfl
@[simp] theorem resetOp_dr : s.resetOp.dr = Config.drReset s.draws := rfl
@[simp] theorem resetOp_av : s.resetOp.av = false := rfl
@[simp] theorem resetOp_hdr : s.resetOp.hdr = s.hdr := rfl
@[simp] theorem resetOp_flt : s.resetOp.flt = s.flt := rfl
@[simp] theorem resetOp_txlog : s.resetOp.txlog = s.txlog := rfl
@[simp] theorem resetOp_linkIn : s.resetOp.linkIn = s.linkIn := rfl
@[simp] theorem resetOp_cmdTable : s.resetOp.cmdTable = s.cmdTable := rfl
@[simp] theorem resetOp_draws : s.resetOp.draws = s.draws + 1 := rfl
@[simp] theorem resetOp_waiting : s.resetOp.waiting = s.waiting := rfl
@[simp] theorem resetOp_ret : s.resetOp.ret = s.ret := rfl
@[simp] theorem resetOp_inputs : s.resetOp.inputs = s.inputs := rfl

/-! ### `issueRead` -/

@[simp] theorem issueRead_ph : s.issueRead.ph = .rx := rfl
@[simp] theorem issueRead_cnt : s.issueRead.cnt = 0#4 := rfl
@[simp] theorem issueRead_buf : s.issueRead.buf = s.buf := rfl
@[simp] theorem issueRead_acc : s.issueRead.acc = 0x00#8 := rfl
@[simp] theorem issueRead_exp : s.issueRead.exp = s.cmdTable.readDistance := rfl
@[simp] theorem issueRead_st : s.issueRead.st = s.st := rfl
@[simp] theorem issueRead_dv : s.issueRead.dv = s.dv := rfl
@[simp] theorem issueRead_dr : s.issueRead.dr = s.dr := rfl
@[simp] theorem issueRead_av : s.issueRead.av = s.av := rfl
@[simp] theorem issueRead_hdr : s.issueRead.hdr = s.hdr := rfl
@[simp] theorem issueRead_flt : s.issueRead.flt = s.flt := rfl
@[simp] theorem issueRead_txlog : s.issueRead.txlog = s.txlog ++ encP0 s.cmdTable.readDistance := rfl
@[simp] theorem issueRead_linkIn : s.issueRead.linkIn = s.linkIn := rfl
@[simp] theorem issueRead_cmdTable : s.issueRead.cmdTable = s.cmdTable := rfl
@[simp] theorem issueRead_draws : s.issueRead.draws = s.draws := rfl
@[simp] theorem issueRead_waiting : s.issueRead.waiting = some .readDistance := rfl
@[simp] theorem issueRead_ret : s.issueRead.ret = none := rfl
@[simp] theorem issueRead_inputs : s.issueRead.inputs = s.inputs := rfl

/-! ### `awaitClose` -/

@[simp] theorem awaitClose_ph (c : Call) : (s.awaitClose c).ph = s.ph := rfl
@[simp] theorem awaitClose_cnt (c : Call) : (s.awaitClose c).cnt = s.cnt := rfl
@[simp] theorem awaitClose_buf (c : Call) : (s.awaitClose c).buf = s.buf := rfl
@[simp] theorem awaitClose_acc (c : Call) : (s.awaitClose c).acc = s.acc := rfl
@[simp] theorem awaitClose_exp (c : Call) : (s.awaitClose c).exp = s.exp := rfl
@[simp] theorem awaitClose_st (c : Call) : (s.awaitClose c).st = s.st := rfl
@[simp] theorem awaitClose_dv (c : Call) : (s.awaitClose c).dv = s.dv := rfl
@[simp] theorem awaitClose_dr (c : Call) : (s.awaitClose c).dr = s.dr := rfl
@[simp] theorem awaitClose_av (c : Call) : (s.awaitClose c).av = s.av := rfl
@[simp] theorem awaitClose_hdr (c : Call) : (s.awaitClose c).hdr = s.hdr := rfl
@[simp] theorem awaitClose_flt (c : Call) : (s.awaitClose c).flt = s.flt := rfl
@[simp] theorem awaitClose_txlog (c : Call) : (s.awaitClose c).txlog = s.txlog := rfl
@[simp] theorem awaitClose_linkIn (c : Call) : (s.awaitClose c).linkIn = s.linkIn := rfl
@[simp] theorem awaitClose_cmdTable (c : Call) : (s.awaitClose c).cmdTable = s.cmdTable := rfl
@[simp] theorem awaitClose_draws (c : Call) : (s.awaitClose c).draws = s.draws := rfl
@[simp] theorem awaitClose_waiting (c : Call) : (s.awaitClose c).waiting = some c := rfl
@[simp] theorem awaitClose_ret (c : Call) : (s.awaitClose c).ret = none := rfl
@[simp] theorem awaitClose_inputs (c : Call) : (s.awaitClose c).inputs = s.inputs := rfl

/-! ### `completeCall` -/

@[simp] theorem completeCall_ph (c : Call) : (s.completeCall c).ph = s.ph := rfl
@[simp] theorem completeCall_cnt (c : Call) : (s.completeCall c).cnt = s.cnt := rfl
@[simp] theorem completeCall_buf (c : Call) : (s.completeCall c).buf = s.buf := rfl
@[simp] theorem completeCall_acc (c : Call) : (s.completeCall c).acc = s.acc := rfl
@[simp] theorem completeCall_exp (c : Call) : (s.completeCall c).exp = s.exp := rfl
@[simp] theorem completeCall_st (c : Call) : (s.completeCall c).st = s.st := rfl
@[simp] theorem completeCall_dv (c : Call) : (s.completeCall c).dv = s.dv := rfl
@[simp] theorem completeCall_dr (c : Call) : (s.completeCall c).dr = s.dr := rfl
@[simp] theorem completeCall_av (c : Call) : (s.completeCall c).av = s.av := rfl
@[simp] theorem completeCall_hdr (c : Call) : (s.completeCall c).hdr = s.hdr := rfl
@[simp] theorem completeCall_flt (c : Call) : (s.completeCall c).flt = s.flt := rfl
@[simp] theorem completeCall_txlog (c : Call) : (s.completeCall c).txlog = s.txlog := rfl
@[simp] theorem completeCall_linkIn (c : Call) : (s.completeCall c).linkIn = s.linkIn := rfl
@[simp] theorem completeCall_cmdTable (c : Call) : (s.completeCall c).cmdTable = s.cmdTable := rfl
@[simp] theorem completeCall_draws (c : Call) : (s.completeCall c).draws = s.draws := rfl
@[simp] theorem completeCall_waiting (c : Call) : (s.completeCall c).waiting = none := rfl
@[simp] theorem completeCall_ret (c : Call) : (s.completeCall c).ret = some (.done (s.callValue c)) := rfl
@[simp] theorem completeCall_inputs (c : Call) : (s.completeCall c).inputs = s.inputs := rfl

end Sys2Proof.Machine.State
end

