-- ==== Sys2Proof/Laws/Ops.lean ====
section
/-! SUPPORT. One lemma per shared operation that says everything it can do. -/

namespace Sys2Proof.Machine

/-! ### Outcomes -/

theorem whenLive_live {s : State} {k : Result} (h : s.flt = none) : whenLive s k = k := by
  simp [whenLive, h]

theorem whenLive_faulted {s : State} {k : Result} {r : FaultReason} (h : s.flt = some r) :
    whenLive s k = .fault (.stuck r) := by
  simp [whenLive, h]

/-- Everything `whenLive` can do. -/
theorem whenLive_next {s t : State} {k : Result} (h : whenLive s k = .next t) :
    s.flt = none ∧ k = .next t := by
  unfold whenLive at h
  split at h
  · cases h
  · exact ⟨‹_›, h⟩

theorem hostOp_idle {s : State} {k : Result} (hf : s.flt = none) (hp : s.ph = .idle) : hostOp s k = k := by
  simp [hostOp, whenLive_live hf, hp]

theorem hostOp_open {s : State} {k : Result} (hf : s.flt = none) (hp : s.ph = .rx) :
    hostOp s k = .next (s.raise .concurrentOp) := by
  simp [hostOp, whenLive_live hf, hp, takeFault]

theorem hostOp_faulted {s : State} {k : Result} {r : FaultReason} (h : s.flt = some r) :
    hostOp s k = .fault (.stuck r) :=
  whenLive_faulted h

/-- Everything the prelude of a host operation can do. -/
theorem hostOp_next {s t : State} {k : Result} (h : hostOp s k = .next t) :
    s.flt = none ∧ ((s.ph = .rx ∧ t = s.raise .concurrentOp) ∨ (s.ph = .idle ∧ k = .next t)) := by
  obtain ⟨hf, h⟩ := whenLive_next h
  refine ⟨hf, ?_⟩
  cases hp : s.ph <;> simp only [hp, takeFault, Host.Outcome.next.injEq] at h
  · exact .inr ⟨rfl, h⟩
  · exact .inl ⟨rfl, h.symm⟩

@[simp] theorem finish_next {v : Value} {s t : State} :
    finish v s = .next t ↔ t = s.withRet (some (.done v)) := by
  simp [finish, eq_comm]

@[simp] theorem noStep_next {s t : State} : noStep s = .next t ↔ t = s.withRet (some .noStep) := by
  simp [noStep, eq_comm]

/-- Everything a command can do (R170). -/
theorem sendCommand_next {g : Bool} {f : List Byte} {s t : State} (h : sendCommand g f s = .next t) :
    s.flt = none ∧ ((s.ph = .rx ∧ t = s.raise .concurrentOp) ∨
      (s.ph = .idle ∧ g = true ∧ t = (s.tx f).withRet (some (.done .ok))) ∨
      (s.ph = .idle ∧ g = false ∧ t = s.withRet (some (.done .paramOutOfRange)))) := by
  obtain ⟨hf, h⟩ := hostOp_next h
  refine ⟨hf, h.imp_right ?_⟩
  rintro ⟨hp, h⟩
  cases g <;> simp_all

/-! ### The window -/

theorem windowOpen_iff {s : State} : s.windowOpen = true ↔ s.ph = .rx ∧ s.cnt < 9#4 := by
  simp [State.windowOpen]

theorem windowOpen_of {s : State} (hp : s.ph = .rx) (hc : s.cnt < 9#4) : s.windowOpen = true :=
  windowOpen_iff.2 ⟨hp, hc⟩

theorem windowOpen_idle {s : State} (hp : s.ph = .idle) : s.windowOpen = false := by
  simp [State.windowOpen, hp]

theorem windowOpen_full {s : State} (hc : 9#4 ≤ s.cnt) : s.windowOpen = false := by
  simp [State.windowOpen]
  intro; bv_omega

/-- Everything the completion can do (R126). -/
theorem closeWindow_cases (s : State) :
    (∃ d, fDecode s.buf.toList s.exp s.hdr = .ok d ∧ s.closeWindow = s.accept d) ∨
    (∃ e, fDecode s.buf.toList s.exp s.hdr = .error e ∧ s.closeWindow = s.reject e ∧
      (e = stMalformed ∨ e = stChecksumMismatch)) := by
  unfold State.closeWindow
  cases h : fDecode s.buf.toList s.exp s.hdr with
  | ok d => exact .inl ⟨d, rfl, rfl⟩
  | error e => exact .inr ⟨e, rfl, rfl, fDecode_error_of_length _ _ _ _ (by simp) h⟩

/-- In an open window `CNT` counts the byte taken. -/
theorem cnt_succ {c : BitVec 4} (h : c < 9#4) : (c + 1#4).toNat = c.toNat + 1 := by
  bv_omega

/-- Everything RX_BYTE's effect can do in an open window (R125, R126): one of bytes 0..7 is stored, or the 9th
is stored and the window closes, accepted or rejected. -/
theorem takeByte_cases {s : State} (b : Byte) (hc : s.cnt < 9#4) :
    (s.cnt < 8#4 ∧ s.takeByte b = s.storeByte b) ∨
    (s.cnt = 8#4 ∧ ∃ d, fDecode (s.storeByte b).buf.toList s.exp s.hdr = .ok d ∧
      s.takeByte b = (s.storeByte b).accept d) ∨
    (s.cnt = 8#4 ∧ ∃ e, fDecode (s.storeByte b).buf.toList s.exp s.hdr = .error e ∧
      s.takeByte b = (s.storeByte b).reject e ∧ (e = stMalformed ∨ e = stChecksumMismatch)) := by
  by_cases h8 : s.cnt = 8#4
  · have h9 : s.cnt + 1#4 = 9#4 := by rw [h8]; rfl
    simp only [h8, true_and, State.takeByte]
    rcases closeWindow_cases (s.storeByte b) with ⟨d, hd, h⟩ | ⟨e, he, h, hk⟩
    · exact .inr (.inl ⟨d, by simpa using hd, h⟩)
    · exact .inr (.inr ⟨e, by simpa using he, h, hk⟩)
  · have h9 : s.cnt + 1#4 ≠ 9#4 := by bv_omega
    exact .inl ⟨by bv_omega, by simp [State.takeByte, h9]⟩

/-- A property kept by every byte taken in an open window is kept by a run of RX_BYTE events. -/
theorem deliver_keeps {P : State → Prop}
    (hP : ∀ s b, P s → s.ph = .rx → s.cnt < 9#4 → s.linkIn.head? = some b → P (s.takeByte b)) :
    ∀ n s, P s → P (s.deliver n) := by
  intro n
  induction n with
  | zero => exact fun s hs => hs
  | succ n ih =>
    intro s hs
    cases hl : s.linkIn with
    | nil => simpa [State.deliver, hl] using hs
    | cons b rest =>
      by_cases ho : s.windowOpen = true
      · obtain ⟨hp, hc⟩ := windowOpen_iff.1 ho
        simpa [State.deliver, hl, ho] using ih _ (hP s b hs hp hc (by simp [hl]))
      · simpa [State.deliver, hl, ho] using hs

/-! ### What a byte leaves alone, and what a run of bytes leaves alone -/

theorem closeWindow_frame {α : Type} (f : State → α) (s : State) (ha : ∀ d, f (s.accept d) = f s)
    (hr : ∀ e, f (s.reject e) = f s) : f s.closeWindow = f s := by
  rcases closeWindow_cases s with ⟨d, -, h⟩ | ⟨e, -, h, -⟩
  · rw [h, ha]
  · rw [h, hr]

theorem takeByte_frame {α : Type} (f : State → α) (s : State) (b : Byte)
    (ha : ∀ (u : State) d, f (u.accept d) = f u) (hr : ∀ (u : State) e, f (u.reject e) = f u) :
    f (s.takeByte b) = f (s.storeByte b) := by
  unfold State.takeByte
  split
  · exact closeWindow_frame f _ (ha _) (hr _)
  · rfl

@[simp] theorem takeByte_linkIn (s : State) (b : Byte) : (s.takeByte b).linkIn = (s.storeByte b).linkIn :=
  takeByte_frame (·.linkIn) s b (fun _ _ => rfl) fun _ _ => rfl
@[simp] theorem takeByte_buf (s : State) (b : Byte) : (s.takeByte b).buf = (s.storeByte b).buf :=
  takeByte_frame (·.buf) s b (fun _ _ => rfl) fun _ _ => rfl
@[simp] theorem takeByte_cnt (s : State) (b : Byte) : (s.takeByte b).cnt = (s.storeByte b).cnt :=
  takeByte_frame (·.cnt) s b (fun _ _ => rfl) fun _ _ => rfl
@[simp] theorem takeByte_acc (s : State) (b : Byte) : (s.takeByte b).acc = (s.storeByte b).acc :=
  takeByte_frame (·.acc) s b (fun _ _ => rfl) fun _ _ => rfl
@[simp] theorem takeByte_exp (s : State) (b : Byte) : (s.takeByte b).exp = s.exp :=
  takeByte_frame (·.exp) s b (fun _ _ => rfl) fun _ _ => rfl
@[simp] theorem takeByte_hdr (s : State) (b : Byte) : (s.takeByte b).hdr = s.hdr :=
  takeByte_frame (·.hdr) s b (fun _ _ => rfl) fun _ _ => rfl
@[simp] theorem takeByte_flt (s : State) (b : Byte) : (s.takeByte b).flt = s.flt :=
  takeByte_frame (·.flt) s b (fun _ _ => rfl) fun _ _ => rfl
@[simp] theorem takeByte_txlog (s : State) (b : Byte) : (s.takeByte b).txlog = s.txlog :=
  takeByte_frame (·.txlog) s b (fun _ _ => rfl) fun _ _ => rfl
@[simp] theorem takeByte_cmdTable (s : State) (b : Byte) : (s.takeByte b).cmdTable = s.cmdTable :=
  takeByte_frame (·.cmdTable) s b (fun _ _ => rfl) fun _ _ => rfl
@[simp] theorem takeByte_draws (s : State) (b : Byte) : (s.takeByte b).draws = s.draws :=
  takeByte_frame (·.draws) s b (fun _ _ => rfl) fun _ _ => rfl
@[simp] theorem takeByte_waiting (s : State) (b : Byte) : (s.takeByte b).waiting = s.waiting :=
  takeByte_frame (·.waiting) s b (fun _ _ => rfl) fun _ _ => rfl
@[simp] theorem takeByte_ret (s : State) (b : Byte) : (s.takeByte b).ret = s.ret :=
  takeByte_frame (·.ret) s b (fun _ _ => rfl) fun _ _ => rfl
@[simp] theorem takeByte_inputs (s : State) (b : Byte) : (s.takeByte b).inputs = s.inputs :=
  takeByte_frame (·.inputs) s b (fun _ _ => rfl) fun _ _ => rfl

theorem deliver_frame {α : Type} (f : State → α) (hf : ∀ (u : State) b, f (u.takeByte b) = f u) (n : Nat)
    (s : State) : f (s.deliver n) = f s :=
  deliver_keeps (P := fun u => f u = f s) (fun u b hu _ _ _ => (hf u b).trans hu) n s rfl

@[simp] theorem deliver_exp (s : State) (n : Nat) : (s.deliver n).exp = s.exp :=
  deliver_frame (·.exp) (fun u b => takeByte_exp u b) n s
@[simp] theorem deliver_hdr (s : State) (n : Nat) : (s.deliver n).hdr = s.hdr :=
  deliver_frame (·.hdr) (fun u b => takeByte_hdr u b) n s
@[simp] theorem deliver_flt (s : State) (n : Nat) : (s.deliver n).flt = s.flt :=
  deliver_frame (·.flt) (fun u b => takeByte_flt u b) n s
@[simp] theorem deliver_txlog (s : State) (n : Nat) : (s.deliver n).txlog = s.txlog :=
  deliver_frame (·.txlog) (fun u b => takeByte_txlog u b) n s
@[simp] theorem deliver_cmdTable (s : State) (n : Nat) : (s.deliver n).cmdTable = s.cmdTable :=
  deliver_frame (·.cmdTable) (fun u b => takeByte_cmdTable u b) n s
@[simp] theorem deliver_draws (s : State) (n : Nat) : (s.deliver n).draws = s.draws :=
  deliver_frame (·.draws) (fun u b => takeByte_draws u b) n s
@[simp] theorem deliver_waiting (s : State) (n : Nat) : (s.deliver n).waiting = s.waiting :=
  deliver_frame (·.waiting) (fun u b => takeByte_waiting u b) n s
@[simp] theorem deliver_ret (s : State) (n : Nat) : (s.deliver n).ret = s.ret :=
  deliver_frame (·.ret) (fun u b => takeByte_ret u b) n s
@[simp] theorem deliver_inputs (s : State) (n : Nat) : (s.deliver n).inputs = s.inputs :=
  deliver_frame (·.inputs) (fun u b => takeByte_inputs u b) n s

/-- With no window open nothing is handed over. -/
theorem deliver_closed {s : State} (h : s.windowOpen = false) (n : Nat) : s.deliver n = s := by
  cases n with
  | zero => rfl
  | succ n => cases hl : s.linkIn <;> simp [State.deliver, h]

/-- One event of a run. -/
theorem deliver_step {s : State} {b : Byte} {rest : List Byte} (hl : s.linkIn = b :: rest)
    (h : s.windowOpen = true) (n : Nat) : s.deliver (n + 1) = (s.takeByte b).deliver n := by
  simp [State.deliver, hl, h]

theorem receiveFrame_live {s : State} (bs : List Byte) (h : s.flt = none) :
    receiveFrame bs s = .next (((s.arrive bs).deliver 9).withRet (some (.done .unit))) := by
  simp [receiveFrame, whenLive_live h, finish]

end Sys2Proof.Machine
end

