-- ==== Sys2Proof/Laws/Exec.lean ====
section
/-! SUPPORT. Everything an instruction can do when it answers a next state, said once: eleven effects. -/

namespace Sys2Proof.Machine

/-- The effects an instruction can have. -/
inductive Effect (s : State) : Instr → State → Prop where
  /-- A host operation or a sent frame in an open window (R211). -/
  | overlap {i : Instr} (hp : s.ph = .rx) (hi : i.isHostOp = true ∨ i.isSentFrame = true) (hr : i ≠ .reset) :
      Effect s i (s.raise .concurrentOp)
  /-- RESET (R231). -/
  | reset : Effect s .reset (s.resetOp.withRet (some (.done .unit)))
  /-- A frame goes out (R46, R110). -/
  | sent {i : Instr} (cmd : Word16) (p0 p1 p2 : Byte) (v : Value) (hp : s.ph = .idle)
      (hi : i.isHostOp = true ∨ i.isSentFrame = true) :
      Effect s i ((s.tx (enc cmd p0 p1 p2)).withRet (some (.done v)))
  /-- An operation that only returns a value. -/
  | answered {i : Instr} (v : Value) (hp : s.ph = .idle) (hi : i.isHostOp = true ∨ i.isSentFrame = true)
      (ha : i = .avail → v = .flag s.av) : Effect s i (s.withRet (some (.done v)))
  /-- GET_DISTANCE (R154). -/
  | consumed (hp : s.ph = .idle) :
      Effect s .getDistance (s.consume.withRet (some (.done (.distance s.dv))))
  /-- RX_ARM (R124). -/
  | armed (e : Word16) (hp : s.ph = .idle) :
      Effect s (.rxArm e) ((s.arm e).awaitClose .rxArm)
  /-- READ_DISTANCE's issue step (R152). -/
  | issued (hp : s.ph = .idle) : Effect s .readDistance s.issueRead
  /-- RX_BYTE in an open window (R125, R126). -/
  | byte (b : Byte) (hp : s.ph = .rx) (hc : s.cnt < 9#4) (hl : s.linkIn.head? = some b) :
      Effect s (.rxByte b) ((s.takeByte b).withRet (some (.done .unit)))
  /-- RX_TIMEOUT in an open window (R127). -/
  | timeout (hp : s.ph = .rx) (hc : s.cnt < 9#4) :
      Effect s .rxTimeout ((s.reject stShortRead).withRet (some (.done .unit)))
  /-- A line event that is not enabled (R128). -/
  | disabled {i : Instr} (hi : (∃ b, i = .rxByte b) ∨ i = .rxTimeout) :
      Effect s i (s.withRet (some .noStep))
  /-- A frame from the device. -/
  | report {i : Instr} (hi : i.format = .frame .deviceToHost) :
      Effect s i (((s.arrive (encode i)).deliver 9).withRet (some (.done .unit)))

/-- A command's effects. -/
theorem effect_of_sendCommand {i : Instr} {g : Bool} {cmd : Word16} {p0 p1 p2 : Byte} {s t : State}
    (hi : i.isHostOp = true ∨ i.isSentFrame = true) (hr : i ≠ .reset) (ha : i ≠ .avail)
    (h : sendCommand g (enc cmd p0 p1 p2) s = .next t) : s.flt = none ∧ Effect s i t := by
  obtain ⟨hf, ⟨hp, rfl⟩ | ⟨hp, -, rfl⟩ | ⟨hp, -, rfl⟩⟩ := sendCommand_next h
  · exact ⟨hf, .overlap hp hi hr⟩
  · exact ⟨hf, .sent _ _ _ _ _ hp hi⟩
  · exact ⟨hf, .answered _ hp hi (absurd · ha)⟩

/-- A host operation's effects, given that of its own part. -/
theorem effect_of_hostOp {i : Instr} {k : Result} {s t : State}
    (hi : i.isHostOp = true ∨ i.isSentFrame = true) (hr : i ≠ .reset) (h : hostOp s k = .next t)
    (hk : s.ph = .idle → k = .next t → Effect s i t) : s.flt = none ∧ Effect s i t := by
  obtain ⟨hf, ⟨hp, rfl⟩ | ⟨hp, h⟩⟩ := hostOp_next h
  · exact ⟨hf, .overlap hp hi hr⟩
  · exact ⟨hf, hk hp h⟩

/-- A device frame's effect. -/
theorem effect_of_receiveFrame {i : Instr} {s t : State} (hi : i.format = .frame .deviceToHost)
    (h : receiveFrame (encode i) s = .next t) : s.flt = none ∧ Effect s i t := by
  obtain ⟨hf, h⟩ := whenLive_next h
  rw [finish_next] at h
  subst h
  exact ⟨hf, .report hi⟩

/-- The inversion of `exec`: a live codec, and one of the eleven effects. -/
theorem exec_next {i : Instr} {s t : State} (h : exec i s = .next t) : s.flt = none ∧ Effect s i t := by
  cases i with
  | restoreFactoryHard | restoreFactorySoft | changeAddress | changeBaud | setUploadMode
  | setUploadInterval | setLedMode | setRelayMode | setCommMode =>
    exact effect_of_sendCommand (.inr rfl) nofun nofun h
  | cmdRestoreFactory | cmdChangeAddress | cmdChangeBaud | cmdSetUploadMode | cmdSetUploadInterval
  | cmdSetLedMode | cmdSetRelayMode | cmdSetCommMode =>
    exact effect_of_sendCommand (.inl rfl) nofun nofun h
  | readDistanceReq =>
    refine effect_of_hostOp (.inr rfl) nofun h fun hp h => ?_
    rw [finish_next] at h
    exact h ▸ .sent _ _ _ _ _ hp (.inr rfl)
  | distanceReport | distanceReportHdr => exact effect_of_receiveFrame rfl h
  | reset =>
    obtain ⟨hf, h⟩ := whenLive_next h
    rw [finish_next] at h
    exact ⟨hf, h ▸ .reset⟩
  | txFrame =>
    refine effect_of_hostOp (.inl rfl) nofun h fun hp h => ?_
    rw [finish_next] at h
    exact h ▸ .sent _ _ _ _ _ hp (.inl rfl)
  | rxArm =>
    exact effect_of_hostOp (.inl rfl) nofun h fun hp h => Host.Outcome.next.inj h ▸ .armed _ hp
  | readDistance =>
    exact effect_of_hostOp (.inl rfl) nofun h fun hp h => Host.Outcome.next.inj h ▸ .issued hp
  | getDistance =>
    refine effect_of_hostOp (.inl rfl) nofun h fun hp h => ?_
    rw [finish_next] at h
    exact h ▸ .consumed hp
  | avail | getLast | getStatus =>
    refine effect_of_hostOp (.inl rfl) nofun h fun hp h => ?_
    rw [finish_next] at h
    exact h ▸ .answered _ hp (.inl rfl) (by first | exact fun _ => rfl | exact nofun)
  | rxByte b =>
    obtain ⟨hf, h⟩ := whenLive_next h
    refine ⟨hf, ?_⟩
    split_ifs at h with he
    · rw [finish_next] at h
      simp only [Bool.and_eq_true, windowOpen_iff, beq_iff_eq] at he
      exact h ▸ .byte b he.1.1 he.1.2 he.2
    · rw [noStep_next] at h
      exact h ▸ .disabled (.inl ⟨b, rfl⟩)
  | rxTimeout =>
    obtain ⟨hf, h⟩ := whenLive_next h
    refine ⟨hf, ?_⟩
    split_ifs at h with he
    · rw [finish_next] at h
      exact h ▸ .timeout (windowOpen_iff.1 he).1 (windowOpen_iff.1 he).2
    · rw [noStep_next] at h
      exact h ▸ .disabled (.inr rfl)

/-- An input that spells no instruction: bytes arrive, a program's last byte was read, ILLEGAL_OP, or a device
frame with any bytes is handed over. -/
theorem otherInput_next {inp : Input} {s t : State} (h : otherInput inp s = .next t) :
    (∃ bs, t = s.arrive bs) ∨ t = s ∨ t = s.raise .illegalOp ∨
    ∃ bs, t = ((s.arrive bs).deliver 9).withRet (some (.done .unit)) := by
  match inp with
  | .arrive bs => exact .inl ⟨bs, (Host.Outcome.next.inj h).symm⟩
  | .code [] => exact .inr (.inl (Host.Outcome.next.inj h).symm)
  | .code (_ :: _) => exact .inr (.inr (.inl (Host.Outcome.next.inj h).symm))
  | .frame .hostToDevice f => cases h
  | .frame .deviceToHost f =>
    have h' := (whenLive_next h).2
    rw [finish_next] at h'
    exact .inr (.inr (.inr ⟨f.toList, h'⟩))

/-- With no window open, the operation due to return is the one the host waits for. -/
theorem callDue_idle {s : State} (h : s.ph = .idle) : s.callDue = s.waiting := by simp [State.callDue, h]

/-- No operation returns while a window is open (R242). -/
theorem callDue_rx {s : State} (h : s.ph = .rx) : s.callDue = none := by simp [State.callDue, h]

theorem callDue_some {s : State} {c : Call} : s.callDue = some c ↔ s.ph = .idle ∧ s.waiting = some c := by
  cases h : s.ph <;> simp [State.callDue, h]

/-- The inversion of `step`: the return of a waiting operation, nothing at all, an instruction run on the state
with its bytes read, or an input that spells none. -/
theorem step_next {s t : State} (h : step s = .next t) :
    s.flt = none ∧ ((∃ c, s.callDue = some c ∧ t = s.completeCall c) ∨
      (s.callDue = none ∧ s.inputs = [] ∧ t = s) ∨
      (s.callDue = none ∧ ∃ inp is i left, s.inputs = inp :: is ∧ inputInstr inp = some (i, left) ∧
        exec i (s.withInputs (pushBack left is)) = .next t) ∨
      (s.callDue = none ∧ ∃ inp is, s.inputs = inp :: is ∧ inputInstr inp = none ∧
        otherInput inp (s.withInputs is) = .next t)) := by
  obtain ⟨hf, h⟩ := whenLive_next h
  refine ⟨hf, ?_⟩
  split at h
  · exact .inl ⟨_, ‹_›, (Host.Outcome.next.inj h).symm⟩
  · split at h
    · exact .inr (.inl ⟨‹_›, ‹_›, (Host.Outcome.next.inj h).symm⟩)
    · split at h
      · exact .inr (.inr (.inl ⟨‹_›, _, _, _, _, ‹_›, ‹_›, h⟩))
      · exact .inr (.inr (.inr ⟨‹_›, _, _, ‹_›, ‹_›, h⟩))

end Sys2Proof.Machine
end

