-- ==== Sys2Proof/Laws/Receive.lean ====
section
/-! SUPPORT. The receiver byte by byte: what a stored byte does to `BUF` and `ACC`, and what a run of RX_BYTE
events leaves. -/

namespace Sys2Proof.Machine

/-! ### The buffer as a list -/

theorem toList_setIfInBounds (F : Vector Byte 9) (k : Nat) (b : Byte) :
    (F.setIfInBounds k b).toList = F.toList.set k b := by
  cases F
  simp [Vector.setIfInBounds, Vector.toList]

theorem setIfInBounds_of_lt (F : Vector Byte 9) (k : Nat) (b : Byte) (h : k < 9) :
    F.setIfInBounds k b = F.set k b := by
  apply Vector.toList_inj.1
  rw [toList_setIfInBounds, Vector.toList_set]

theorem take_succ_set (l : List Byte) (k : Nat) (b : Byte) (h : k < l.length) :
    (l.set k b).take (k + 1) = l.take k ++ [b] := by
  rw [List.take_add_one, List.take_set_of_le (le_refl k), List.getElem?_set_self h, Option.toList_some]

theorem drop_succ_set (l : List Byte) (k : Nat) (b : Byte) : (l.set k b).drop (k + 1) = l.drop (k + 1) := by
  rw [List.drop_set, if_pos (Nat.lt_succ_self k)]

/-! ### One byte -/

/-- RX_BYTE in an open window with `b` at the head of `LINK_IN` (R125, R126). -/
theorem exec_rxByte_open {s : State} {b : Byte} {rest : List Byte} (hf : s.flt = none) (hp : s.ph = .rx)
    (hc : s.cnt < 9#4) (hl : s.linkIn = b :: rest) :
    exec (.rxByte b) s = .next ((s.takeByte b).withRet (some (.done .unit))) := by
  have h : (s.windowOpen && s.linkIn.head? == some b) = true := by simp [windowOpen_of hp hc, hl]
  exact (whenLive_live hf).trans (if_pos h)

/-- Bytes 0..7: the byte is stored, and nothing else happens. -/
theorem takeByte_early {s : State} (b : Byte) (hc : s.cnt < 8#4) : s.takeByte b = s.storeByte b := by
  have : s.cnt + 1#4 ≠ 9#4 := by bv_omega
  simp [State.takeByte, this]

/-- Byte 8: the byte is stored, and the window is completed. -/
theorem takeByte_last {s : State} (b : Byte) (hc : s.cnt = 8#4) :
    s.takeByte b = (s.storeByte b).closeWindow := by
  have : s.cnt + 1#4 = 9#4 := by rw [hc]; rfl
  simp [State.takeByte, this]

/-- The running XOR follows the buffer (R25): stated for the byte at `CNT`, 0..8. -/
theorem storeByte_acc_fold {s : State} (b : Byte) (hc : s.cnt < 9#4)
    (ha : s.acc = chk (s.buf.toList.take (min s.cnt.toNat 8))) :
    (s.storeByte b).acc = chk ((s.storeByte b).buf.toList.take (min (s.storeByte b).cnt.toNat 8)) := by
  simp only [State.storeByte_acc, State.storeByte_buf, State.storeByte_cnt, toList_setIfInBounds, cnt_succ hc]
  by_cases h8 : s.cnt < 8#4
  · have hn : s.cnt.toNat < 8 := by bv_omega
    rw [Nat.min_eq_left (by omega)] at ha ⊢
    rw [if_pos h8, take_succ_set _ _ _ (by simp; omega), chk_join, ← ha]
    simp
  · have hn : s.cnt.toNat = 8 := by bv_omega
    rw [if_neg h8, ha, hn]
    simp [List.take_set_of_le]

/-! ### A run of bytes -/

/-- A run of up to eight bytes into an open window that has room for them: what it leaves. Of `ret` it says
nothing: the event after the run writes it. -/
theorem run_early (g : List Byte) : ∀ (s : State) (rest : List Byte), s.flt = none → s.ph = .rx →
    s.cnt.toNat + g.length ≤ 8 → s.linkIn = g ++ rest →
    ∃ t, execAll (g.map .rxByte) s = .next t ∧
      t.cnt.toNat = s.cnt.toNat + g.length ∧ t.acc = s.acc ^^^ chk g ∧
      t.buf.toList.take t.cnt.toNat = s.buf.toList.take s.cnt.toNat ++ g ∧
      t.buf.toList.drop t.cnt.toNat = s.buf.toList.drop t.cnt.toNat ∧
      t = { s with linkIn := rest, cnt := t.cnt, acc := t.acc, buf := t.buf, ret := t.ret } := by
  induction g with
  | nil =>
    intro s rest _ _ _ hl
    rw [List.nil_append] at hl
    exact ⟨s, rfl, rfl, by simp, by simp, rfl, by rw [← hl]⟩
  | cons b g ih =>
    intro s rest hf hp hn hl
    rw [List.length_cons] at hn
    have hc : s.cnt < 8#4 := by bv_omega
    have hs : exec (.rxByte b) s = .next ((s.storeByte b).withRet (some (.done .unit))) := by
      rw [exec_rxByte_open hf hp (by bv_omega) hl, takeByte_early b hc]
    have hcn : (s.storeByte b).cnt.toNat = s.cnt.toNat + 1 := cnt_succ (by bv_omega)
    obtain ⟨t, ht, h1, h2, h3, h4, h5⟩ := 
      ih ((s.storeByte b).withRet (some (.done .unit))) rest hf hp (by rw [State.withRet_cnt, hcn]; omega) (by simp [hl])
    refine ⟨t, by simp only [List.map_cons, execAll, hs, ht], ?_, ?_, ?_, ?_, ?_⟩
    · rw [h1, State.withRet_cnt, hcn, List.length_cons]; omega
    · rw [h2, State.withRet_acc, State.storeByte_acc, if_pos hc, chk_head, BitVec.xor_assoc]
    · rw [h3, State.withRet_cnt, hcn, State.withRet_buf, State.storeByte_buf, toList_setIfInBounds, take_succ_set _ _ _ (by simp; omega)]
      simp
    · have hk : t.cnt.toNat = s.cnt.toNat + 1 + g.length := by rw [h1, State.withRet_cnt, hcn]
      rw [h4, hk, State.withRet_buf, State.storeByte_buf, toList_setIfInBounds, ← List.drop_drop, drop_succ_set, List.drop_drop]
    · rw [h5]; rfl

/-- A run of instructions is the first part, then the rest. -/
theorem execAll_join (is js : List Instr) (s t : State) (h : execAll is s = .next t) :
    execAll (is ++ js) s = execAll js t := by
  induction is generalizing s with
  | nil => cases h; rfl
  | cons i is ih =>
    simp only [List.cons_append, execAll] at h ⊢
    split at h
    · exact ih _ h
    · cases h
    · cases h

/-! ### A run of events in one step -/

/-- Everything a run of RX_BYTE events can do (R125, R126, R128): it takes bytes from the head of `LINK_IN`, no
more than the open window has room for, counting them; and either the window stays as it was, or its last byte
closed it, accepting or rejecting the frame in `BUF`. -/
theorem deliver_cases (n : Nat) (s : State) :
    (∃ taken, s.linkIn = taken ++ (s.deliver n).linkIn ∧
      (s.deliver n).cnt.toNat = s.cnt.toNat + taken.length ∧
      (taken ≠ [] → s.ph = .rx ∧ taken.length + s.cnt.toNat ≤ 9)) ∧
    (((s.deliver n).ph = s.ph ∧ (s.deliver n).st = s.st ∧ (s.deliver n).dv = s.dv ∧
        (s.deliver n).dr = s.dr ∧ (s.deliver n).av = s.av) ∨
      (s.ph = .rx ∧ ∃ (u : State) (d : Word16), s.deliver n = u.accept d ∧
        fDecode u.buf.toList u.exp u.hdr = .ok d) ∨
      (s.ph = .rx ∧ ∃ (u : State) (e : BitVec 3), s.deliver n = u.reject e ∧
        u.dv = s.dv ∧ u.dr = s.dr ∧ u.av = s.av ∧ fDecode u.buf.toList u.exp u.hdr = .error e ∧
        (e = stMalformed ∨ e = stChecksumMismatch))) := by
  induction n generalizing s with
  | zero => exact ⟨⟨[], rfl, rfl, fun h => absurd rfl h⟩, .inl ⟨rfl, rfl, rfl, rfl, rfl⟩⟩
  | succ n ih =>
    by_cases hs : s.deliver (n + 1) = s
    · rw [hs]
      exact ⟨⟨[], rfl, rfl, fun h => absurd rfl h⟩, .inl ⟨rfl, rfl, rfl, rfl, rfl⟩⟩
    · have ho : s.windowOpen = true := by
        by_contra h
        exact hs (deliver_closed (by simpa using h) _)
      obtain ⟨hp, hc⟩ := windowOpen_iff.1 ho
      obtain ⟨b, rest, hl⟩ : ∃ b rest, s.linkIn = b :: rest := by
        cases hl : s.linkIn with
        | nil => exact absurd (by simp [State.deliver, hl]) hs
        | cons b rest => exact ⟨b, rest, rfl⟩
      rw [deliver_step hl ho]
      have hcn : (s.takeByte b).cnt.toNat = s.cnt.toNat + 1 := by simpa using cnt_succ hc
      have hlt : (s.takeByte b).linkIn = rest := by simp [hl]
      have h9 : s.cnt.toNat < 9 := by bv_omega
      rcases takeByte_cases b hc with ⟨h8, h'⟩ | ⟨h8, d, hd, h'⟩ | ⟨h8, e, he, h', hk⟩
      · obtain ⟨⟨taken, h1, h2, h3⟩, h4⟩ := ih (s.takeByte b)
        refine ⟨⟨b :: taken, ?_, ?_, fun _ => ⟨hp, ?_⟩⟩, ?_⟩
        · rw [hl, List.cons_append, ← h1, hlt]
        · rw [h2, hcn, List.length_cons]; omega
        · by_cases ht : taken = []
          · rw [ht, List.length_singleton]; omega
          · have := (h3 ht).2
            rw [List.length_cons]; omega
        · have hf : (s.takeByte b).ph = s.ph ∧ (s.takeByte b).st = s.st ∧ (s.takeByte b).dv = s.dv ∧
              (s.takeByte b).dr = s.dr ∧ (s.takeByte b).av = s.av := by rw [h']; exact ⟨rfl, rfl, rfl, rfl, rfl⟩
          obtain ⟨e1, e2, e3, e4, e5⟩ := hf
          rw [e1, e2, e3, e4, e5] at h4
          exact h4
      all_goals
        have hn : (s.takeByte b).deliver n = s.takeByte b :=
          deliver_closed (windowOpen_idle (by rw [h']; rfl)) n
        rw [hn]
        refine ⟨⟨[b], by rw [hl, hlt]; rfl, hcn, fun _ => ⟨hp, ?_⟩⟩, ?_⟩
        · rw [List.length_singleton]; omega
      · exact .inr (.inl ⟨hp, _, d, h', by simpa using hd⟩)
      · exact .inr (.inr ⟨hp, _, e, h', rfl, rfl, rfl, by simpa using he, hk⟩)

/-- How an operation ended is no part of what the receiver does. -/
theorem takeByte_withRet (s : State) (b : Byte) (r : Option Report) :
    (s.withRet r).takeByte b = (s.takeByte b).withRet r := by
  have hc : ∀ u : State, (u.withRet r).closeWindow = u.closeWindow.withRet r := by
    intro u
    rcases closeWindow_cases u with ⟨d, hd, h⟩ | ⟨e, he, h, -⟩
    · rw [h]; simp only [State.closeWindow, State.withRet_buf, State.withRet_exp, State.withRet_hdr, hd]; rfl
    · rw [h]; simp only [State.closeWindow, State.withRet_buf, State.withRet_exp, State.withRet_hdr, he]; rfl
  have hs : (s.withRet r).storeByte b = (s.storeByte b).withRet r := rfl
  unfold State.takeByte
  rw [hs]
  by_cases h : s.cnt + 1#4 = 9#4
  · simp only [State.withRet_cnt, h, if_true, hc]
  · simp only [State.withRet_cnt, h, if_false]

theorem deliver_withRet (n : Nat) (s : State) (r : Option Report) :
    (s.withRet r).deliver n = (s.deliver n).withRet r := by
  induction n generalizing s with
  | zero => rfl
  | succ n ih =>
    have ho : (s.withRet r).windowOpen = s.windowOpen := rfl
    cases hl : s.linkIn with
    | nil => simp [State.deliver, hl]
    | cons b rest =>
      by_cases h : s.windowOpen = true
      · simp [State.deliver, hl, ho, h, takeByte_withRet, ih]
      · simp [State.deliver, ho, h]

end Sys2Proof.Machine
end

