-- ==== Sys2Proof/Laws/Invariant.lean ====
section
/-! SUPPORT. Each named operation keeps the invariant of Safety. -/

namespace Sys2Proof.Machine

theorem sentFrames_snoc (fs : List (Word16 × Byte × Byte × Byte)) (c : Word16) (p0 p1 p2 : Byte) :
    sentFrames (fs ++ [(c, p0, p1, p2)]) = sentFrames fs ++ enc c p0 p1 p2 := by
  simp [sentFrames]

theorem State.Inv.withRet {s : State} {r : Option Report} (h : s.Inv) : (s.withRet r).Inv :=
  ⟨h.1, h.2, h.3, h.4, h.5, h.6⟩

theorem State.Inv.raise {s : State} {r : FaultReason} (h : s.Inv) : (s.raise r).Inv :=
  ⟨h.1, h.2, h.3, h.4, h.5, h.6⟩

theorem State.Inv.arrive {s : State} {bs : List Byte} (h : s.Inv) : (s.arrive bs).Inv :=
  ⟨h.1, h.2, h.3, h.4, h.5, h.6⟩

theorem State.Inv.withInputs {s : State} {is : List Input} (h : s.Inv) : (s.withInputs is).Inv :=
  ⟨h.1, h.2, h.3, h.4, h.5, h.6⟩

theorem State.Inv.completeCall {s : State} {c : Call} (h : s.Inv) : (s.completeCall c).Inv :=
  ⟨h.1, h.2, h.3, h.4, h.5, h.6⟩

theorem State.Inv.awaitClose {s : State} {c : Call} (h : s.Inv) : (s.awaitClose c).Inv :=
  ⟨h.1, h.2, h.3, h.4, h.5, h.6⟩

theorem State.Inv.consume {s : State} (h : s.Inv) : s.consume.Inv :=
  ⟨h.1, h.2, h.3, h.4, fun hx => h.5 (.inr (by simpa using hx)), h.6⟩

theorem State.Inv.tx {s : State} {c : Word16} {p0 p1 p2 : Byte} (h : s.Inv) : (s.tx (enc c p0 p1 p2)).Inv := by
  refine ⟨h.1, h.2, h.3, h.4, h.5, ?_⟩
  obtain ⟨fs, hfs⟩ := h.6
  exact ⟨fs ++ [(c, p0, p1, p2)], by simp [hfs, sentFrames_snoc]⟩

theorem State.Inv.arm {s : State} {e : Word16} (h : s.Inv) : (s.arm e).Inv :=
  ⟨by simp, fun _ => by simp, by simp, h.4, h.5, h.6⟩

theorem State.Inv.issueRead {s : State} (h : s.Inv) : s.issueRead.Inv :=
  (State.Inv.arm (State.Inv.tx (p0 := 0#8) (p1 := 0#8) (p2 := 0#8) h)).awaitClose

theorem State.Inv.resetOp {s : State} (h : s.Inv) : s.resetOp.Inv :=
  ⟨by simp, by simp, by simp, by simp [stNone], by simp [stNone, stOk], h.6⟩

theorem State.Inv.reject {s : State} {e : BitVec 3} (h : s.Inv) (he : e ≤ 4#3) (he' : e ≠ stOk) :
    (s.reject e).Inv :=
  ⟨h.1, by simp, h.3, he, fun hx => h.5 (.inl (by simpa [he'] using hx)), h.6⟩

theorem State.Inv.takeByte {s : State} {b : Byte} (h : s.Inv) (hc : s.cnt < 9#4) : (s.takeByte b).Inv := by
  have h3 := storeByte_acc_fold b hc h.3
  refine ⟨?_, ?_, by simpa using h3, ?_, ?_, by simpa using h.6⟩
  · simp; bv_omega
  all_goals rcases takeByte_cases b hc with ⟨h8, h'⟩ | ⟨_, d, _, h'⟩ | ⟨_, e, _, h', he⟩
  all_goals rw [h']; simp [h.4, stOk]
  · intro _; bv_omega
  · rcases he with rfl | rfl <;> simp [stMalformed, stChecksumMismatch]
  · simpa [stOk] using h.5
  · intro hx
    refine h.5 (hx.imp_right ?_)
    intro hx; subst hx; simp [stMalformed, stChecksumMismatch] at he

theorem State.Inv.deliver {s : State} {n : Nat} (h : s.Inv) : (s.deliver n).Inv :=
  deliver_keeps (P := State.Inv) (fun _ _ h _ hc _ => h.takeByte hc) n s h

end Sys2Proof.Machine
end

