-- ==== Sys2Proof/Laws/PerInstr.lean ====
section
/-! SUPPORT. Per-instruction families: one lemma per constructor of Instr. -/

namespace Sys2Proof.Laws.RoundTrip

/-- Decoding an instruction's encoding, followed by anything, gives the instruction back and leaves the rest. -/
def Statement (i : Instr) : Prop :=
  WellFormed i → ∀ rest, decode i.format (encode i ++ rest) = .ok (i, rest)

/-- A command frame, given the row that its bytes 1, 5, 6 and 8 name. -/
theorem of_sentRow {i : Instr} (idLow p0 p1 c : Byte) (h : sentRow idLow p0 p1 c = some i)
    (hf : i.format = .frame .hostToDevice) (he : encode i = sentBytes idLow p0 p1 c) : Statement i := by
  intro _ rest
  rw [hf, he]
  simp [decode, sentBytes, decodeSent, h]

theorem restoreFactoryHard : Statement .restoreFactoryHard := of_sentRow 0x39#8 0xFE#8 0x00#8 0xAC#8 rfl rfl rfl
theorem restoreFactorySoft : Statement .restoreFactorySoft := of_sentRow 0x39#8 0xFD#8 0x00#8 0xAF#8 rfl rfl rfl
theorem changeAddress (a : Word16) (c : Byte) : Statement (.changeAddress a c) :=
  of_sentRow 0x32#8 (Machine.hiByte a) (Machine.loByte a) c (by simp [sentRow]) rfl rfl
theorem changeBaud (v c : Byte) : Statement (.changeBaud v c) := of_sentRow 0x30#8 v 0x00#8 c rfl rfl rfl
theorem setUploadMode (v c : Byte) : Statement (.setUploadMode v c) := of_sentRow 0x34#8 v 0x00#8 c rfl rfl rfl
theorem setUploadInterval (v c : Byte) : Statement (.setUploadInterval v c) :=
  of_sentRow 0x35#8 v 0x00#8 c rfl rfl rfl
theorem setLedMode (v c : Byte) : Statement (.setLedMode v c) := of_sentRow 0x37#8 v 0x00#8 c rfl rfl rfl
theorem setRelayMode (v c : Byte) : Statement (.setRelayMode v c) := of_sentRow 0x38#8 v 0x00#8 c rfl rfl rfl
theorem setCommMode (v c : Byte) : Statement (.setCommMode v c) := of_sentRow 0x31#8 v 0x00#8 c rfl rfl rfl
theorem readDistanceReq : Statement .readDistanceReq := of_sentRow 0x33#8 0x00#8 0x00#8 0x58#8 rfl rfl rfl

theorem distanceReport (len addrHi addrLo : Byte) (d : Word16) (p2 c : Byte) :
    Statement (.distanceReport len addrHi addrLo d p2 c) := by
  intro h rest
  have h' : ¬(len = Config.lenTag ∧ addrHi = Config.addrHi ∧ addrLo = Config.addrLo) := by
    rintro ⟨rfl, rfl, rfl⟩
    simp [WellFormed, Instr.wf] at h
  simp [Instr.format, decode, encode, reportBytes, decodeReceived, h']

theorem distanceReportHdr (d : Word16) (p2 c : Byte) : Statement (.distanceReportHdr d p2 c) :=
  fun _ _ => by simp [Instr.format, decode, encode, reportBytes, decodeReceived]

theorem reset : Statement .reset := fun _ _ => rfl
theorem txFrame (cmd : Word16) (p0 p1 p2 : Byte) : Statement (.txFrame cmd p0 p1 p2) :=
  fun _ _ => by simp [Instr.format, decode, encode, decodeOp, readFrameArgs]
theorem rxArm (expected : Word16) : Statement (.rxArm expected) :=
  fun _ _ => by simp [Instr.format, decode, encode, decodeOp, readWord]
theorem readDistance : Statement .readDistance := fun _ _ => rfl
theorem avail : Statement .avail := fun _ _ => rfl
theorem getDistance : Statement .getDistance := fun _ _ => rfl
theorem getLast : Statement .getLast := fun _ _ => rfl
theorem getStatus : Statement .getStatus := fun _ _ => rfl
theorem cmdRestoreFactory (hard : Bool) : Statement (.cmdRestoreFactory hard) :=
  fun _ _ => by cases hard <;> rfl
theorem cmdChangeAddress (addr : Word16) : Statement (.cmdChangeAddress addr) :=
  fun _ _ => by simp [Instr.format, decode, encode, decodeOp, readWord]
theorem cmdChangeBaud (code : Byte) : Statement (.cmdChangeBaud code) := fun _ _ => rfl
theorem cmdSetUploadMode (auto : Bool) : Statement (.cmdSetUploadMode auto) :=
  fun _ _ => by cases auto <;> rfl
theorem cmdSetUploadInterval (n : Byte) : Statement (.cmdSetUploadInterval n) := fun _ _ => rfl
theorem cmdSetLedMode (mode : Byte) : Statement (.cmdSetLedMode mode) := fun _ _ => rfl
theorem cmdSetRelayMode (mode : Byte) : Statement (.cmdSetRelayMode mode) := fun _ _ => rfl
theorem cmdSetCommMode (mode : Byte) : Statement (.cmdSetCommMode mode) := fun _ _ => rfl
theorem rxByte (b : Byte) : Statement (.rxByte b) := fun _ _ => rfl
theorem rxTimeout : Statement .rxTimeout := fun _ _ => rfl

end Sys2Proof.Laws.RoundTrip
end

