-- ==== Sys2Proof/Laws/Run.lean ====
section
/-! SUPPORT. Runs and open windows: what a step at an open window leaves, and what the next instruction of a step
does. -/

namespace Sys2Proof.Machine

/-- In an open window no instruction ends the host's wait (R242). -/
theorem Effect.waiting_of_open {s t : State} {i : Instr} (h : Effect s i t) (hp : s.ph = .rx) :
    t.waiting = s.waiting := by
  cases h with
  | sent _ _ _ _ _ h | answered _ h | consumed h | armed _ h | issued h => simp [hp] at h
  | _ => simp

/-- The bytes of a device frame never take `CNT` down. -/
theorem deliver_cnt_le (s : State) (n : Nat) (hc : s.cnt ≤ 9#4) : s.cnt ≤ (s.deliver n).cnt := by
  suffices s.cnt ≤ (s.deliver n).cnt ∧ (s.deliver n).cnt ≤ 9#4 from this.1
  refine deliver_keeps (P := fun u => s.cnt ≤ u.cnt ∧ u.cnt ≤ 9#4) ?_ n s ⟨by simp, hc⟩
  intro u b hu _ hc _
  simp only [takeByte_cnt, State.storeByte_cnt]
  constructor <;> bv_omega

/-- In an open window an instruction closes it, or leaves `CNT` at least where it was (R125). -/
theorem Effect.cnt_of_open {s t : State} {i : Instr} (h : Effect s i t) (hp : s.ph = .rx) (hc : s.cnt ≤ 9#4) :
    t.ph = .idle ∨ s.cnt ≤ t.cnt := by
  cases h with
  | sent _ _ _ _ _ h | answered _ h | consumed h | armed _ h | issued h => simp [hp] at h
  | reset | timeout => simp
  | overlap | disabled => simp
  | byte b _ hc' _ =>
    refine .inr ?_
    simp only [State.withRet_cnt, takeByte_cnt, State.storeByte_cnt]
    bv_omega
  | report => exact .inr (deliver_cnt_le (s.arrive (encode i)) 9 hc)

/-- The step at a state with a next instruction is that instruction, run with its bytes read. -/
theorem step_nextInstr {s t : State} {i : Instr} (hi : s.nextInstr = some i) (h : step s = .next t) :
    ∃ is, exec i (s.withInputs is) = .next t := by
  obtain ⟨-, ⟨c, hc, -⟩ | ⟨hc, hin, -⟩ | ⟨hc, inp, is, j, left, hin, hd, hx⟩ | ⟨hc, inp, is, hin, hd, -⟩⟩ :=
    step_next h
  · simp [State.nextInstr, hc] at hi
  · simp [State.nextInstr, hc, hin] at hi
  · simp only [State.nextInstr, hc, hin, hd, Option.map_some, Option.some.injEq] at hi
    exact ⟨_, hi ▸ hx⟩
  · simp [State.nextInstr, hc, hin, hd] at hi

/-- In a run that stays live, RESET and RX_TIMEOUT close an open window (R127, R231). -/
theorem step_closes {s t : State} (hi : s.nextInstr = some .rxTimeout ∨ s.nextInstr = some .reset)
    (h : step s = .next t) (hp : s.ph = .rx) (hc : s.cnt < 9#4) : t.ph = .idle := by
  rcases hi with hi | hi
  all_goals
    obtain ⟨is, hx⟩ := step_nextInstr hi h
    have hx := (whenLive_next hx).2
  · rw [if_pos (show (s.withInputs is).windowOpen = true from windowOpen_iff.2 ⟨hp, hc⟩), finish_next] at hx
    exact hx ▸ rfl
  · rw [finish_next] at hx
    exact hx ▸ rfl

end Sys2Proof.Machine
end

