-- ==== Sys2Proof/Tests/Slice0.lean ====
section
/-! SUPPORT. Tests: decodings and results whose expected values are the spec's own (spec/95_test_vectors.md,
opcode_table.json, the examples in the rules), and a witness of the hypotheses of every statement. -/

open Sys2Proof Sys2Proof.Machine Sys2Proof.Claims

namespace Sys2Proof.Tests

/-! ### Helpers -/

/-- A live codec with no window open, nothing in `LINK_IN` and every register at a plain value. -/
def idle : State :=
  { State.reset with buf := Vector.replicate 9 0x00#8, exp := 0x0000#16, dv := 0x0000#16, dr := 0x0000#16, linkIn := [] }

/-- A window armed with 0x6233 and nothing taken. -/
def opened : State := { idle with ph := .rx, exp := 0x6233#16 }

/-- A faulted codec. -/
def faulted : State := { idle with flt := some .concurrentOp }

/-- The host waits in `c`, whose window is open, or has closed. -/
def awaiting (c : Call) : State := { opened with waiting := some c }
def closed (c : Call) : State := { idle with waiting := some c }

/-- The report of 100 mm (95_test_vectors.md, source property 7). -/
def report100 : Vector Byte 9 :=
  #v[0x62#8, 0x33#8, 0x09#8, 0xFF#8, 0xFF#8, 0x00#8, 0x64#8, 0x00#8, 0x3C#8]

/-- A window that has taken the first eight bytes of `report100`, the ninth waiting. -/
def almost : State :=
  { opened with
    cnt := 8#4, acc := 0x3C#8, linkIn := [0x3C#8]
    buf := #v[0x62#8, 0x33#8, 0x09#8, 0xFF#8, 0xFF#8, 0x00#8, 0x64#8, 0x00#8, 0x00#8] }

/-- The next state, where there is one. -/
def nextOf : Result → Option State
  | .next t => some t
  | .fault _ => none
  | .refused _ => none

/-- F_DECODE's answer as data. -/
def verdict (g : List Byte) (e : Word16) (hdr : Bool) : Option Word16 × BitVec 3 :=
  match fDecode g e hdr with
  | .ok d => (some d, 1#3)
  | .error c => (none, c)

/-! ### Well-formedness -/

theorem test_wf_refuses_canonical_header_in_the_other_row :
    ¬ WellFormed (.distanceReport 0x09#8 0xFF#8 0xFF#8 0x0064#16 0x00#8 0x3C#8) := by decide

theorem test_wf_accepts_other_headers :
    WellFormed (.distanceReport 0x08#8 0xFF#8 0xFF#8 0x0064#16 0x00#8 0x3D#8) ∧
    WellFormed (.distanceReport 0x09#8 0x00#8 0x01#8 0x0064#16 0x00#8 0x3D#8) ∧
    WellFormed (.distanceReport 0x09#8 0xFF#8 0x01#8 0x0064#16 0x00#8 0x3D#8) := by decide

/-! ### Decoding: every row, by a word written out from the spec -/

/-- Host-to-device rows: frames of 95_test_vectors.md 2.6 and R151. -/
theorem test_decode_command_frames :
    decodeTableWord 72 0x623909FFFFFE0000AC = some .restoreFactoryHard ∧
    decodeTableWord 72 0x623909FFFFFD0000AF = some .restoreFactorySoft ∧
    decodeTableWord 72 0x623209FFFF00010058 = some (.changeAddress 0x0001#16 0x58#8) ∧
    decodeTableWord 72 0x623009FFFF09000052 = some (.changeBaud 0x09#8 0x52#8) ∧
    decodeTableWord 72 0x623409FFFF0100005E = some (.setUploadMode 0x01#8 0x5E#8) ∧
    decodeTableWord 72 0x623509FFFF6400003A = some (.setUploadInterval 0x64#8 0x3A#8) ∧
    decodeTableWord 72 0x623709FFFF0300005F = some (.setLedMode 0x03#8 0x5F#8) ∧
    decodeTableWord 72 0x623809FFFF01000052 = some (.setRelayMode 0x01#8 0x52#8) ∧
    decodeTableWord 72 0x623109FFFF0100005B = some (.setCommMode 0x01#8 0x5B#8) ∧
    decodeTableWord 72 0x623309FFFF00000058 = some .readDistanceReq := by decide

/-- Device-to-host rows: frames of 95_test_vectors.md 2.3. The request read in the other direction is a report
of 0 mm (R74). -/
theorem test_decode_reports :
    decodeTableWord 72 0x623309FFFF12345628 = some (.distanceReportHdr 0x1234#16 0x56#8 0x28#8) ∧
    decodeTableWord 72 0x62330900010064003D =
      some (.distanceReport 0x09#8 0x00#8 0x01#8 0x0064#16 0x00#8 0x3D#8) ∧
    (decode (.frame .deviceToHost)
      [0x62#8, 0x33#8, 0x09#8, 0xFF#8, 0xFF#8, 0x00#8, 0x00#8, 0x00#8, 0x58#8]).toOption =
      some (.distanceReportHdr 0x0000#16 0x00#8 0x58#8, []) := by decide

/-- Host operations and line events: the encodings of 95_test_vectors.md P1, P4, P6 and R70, R71. -/
theorem test_decode_op_codes :
    decodeTableWord 8 0x00 = some .reset ∧
    decodeTableWord 48 0x016237040000 = some (.txFrame 0x6237#16 0x04#8 0x00#8 0x00#8) ∧
    decodeTableWord 24 0x026233 = some (.rxArm 0x6233#16) ∧
    decodeTableWord 8 0x03 = some .readDistance ∧ decodeTableWord 8 0x04 = some .avail ∧
    decodeTableWord 8 0x05 = some .getDistance ∧ decodeTableWord 8 0x06 = some .getLast ∧
    decodeTableWord 8 0x07 = some .getStatus ∧
    decodeTableWord 16 0x1001 = some (.cmdRestoreFactory true) ∧
    decodeTableWord 24 0x111234 = some (.cmdChangeAddress 0x1234#16) ∧
    decodeTableWord 16 0x1209 = some (.cmdChangeBaud 0x09#8) ∧
    decodeTableWord 16 0x1300 = some (.cmdSetUploadMode false) ∧
    decodeTableWord 16 0x1465 = some (.cmdSetUploadInterval 0x65#8) ∧
    decodeTableWord 16 0x1504 = some (.cmdSetLedMode 0x04#8) ∧
    decodeTableWord 16 0x1601 = some (.cmdSetRelayMode 0x01#8) ∧
    decodeTableWord 16 0x1701 = some (.cmdSetCommMode 0x01#8) ∧
    decodeTableWord 16 0x8062 = some (.rxByte 0x62#8) ∧ decodeTableWord 8 0x81 = some .rxTimeout := by decide

/-- R70: unassigned op codes, a Boolean operand of 2, a missing operand; an unassigned frame id (R68). -/
theorem test_decode_refuses :
    decodeTableWord 8 0x08 = none ∧ decodeTableWord 8 0x18 = none ∧ decodeTableWord 8 0x82 = none ∧
    decodeTableWord 16 0x1002 = none ∧ decodeTableWord 16 0x13FF = none ∧
    (decode .opCode [0x02#8, 0x62#8]).toOption = none ∧
    decodeTableWord 72 0x623609FFFF0000005D = none := by decide

/-- Every row of the table, with its open bits zero, runs as the first instruction after reset. -/
theorem test_every_row_runs_after_reset :
    ([(72, 0x623909FFFFFE0000AC), (72, 0x623909FFFFFD0000AF), (72, 0x623209FFFF00000000),
      (72, 0x623009FFFF00000000), (72, 0x623409FFFF00000000), (72, 0x623509FFFF00000000),
      (72, 0x623709FFFF00000000), (72, 0x623809FFFF00000000), (72, 0x623109FFFF00000000),
      (72, 0x623309FFFF00000058), (72, 0x623300000000000000), (72, 0x623309FFFF00000000)] ++
     [(8, 0x00), (48, 0x010000000000), (24, 0x020000), (8, 0x03), (8, 0x04), (8, 0x05), (8, 0x06), (8, 0x07),
      (16, 0x1000), (24, 0x110000), (16, 0x1200), (16, 0x1300), (16, 0x1400), (16, 0x1500), (16, 0x1600),
      (16, 0x1700), (16, 0x8000), (8, 0x81)]).all
      (fun r => (decodeTableWord r.1 r.2).isSome && (nextOf (step (State.reset.withFetchWord r.1 r.2))).isSome)
      = true := by decide

/-! ### CHK, ENC and F_DECODE (95_test_vectors.md 2.1 to 2.3) -/

theorem test_chk_vectors :
    chk [] = 0x00#8 ∧ chk [0x62#8, 0x33#8] = 0x51#8 ∧
    chk [0x01#8, 0x02#8, 0x04#8, 0x08#8, 0x10#8, 0x20#8, 0x40#8, 0x80#8] = 0xFF#8 ∧
    chk [0x80#8, 0x80#8] = 0x00#8 ∧ chk report100.toList = 0x00#8 := by decide

theorem test_enc_vectors :
    enc 0x6233#16 0x12#8 0x34#8 0x56#8 =
      [0x62#8, 0x33#8, 0x09#8, 0xFF#8, 0xFF#8, 0x12#8, 0x34#8, 0x56#8, 0x28#8] ∧
    enc 0xFFFF#16 0xFF#8 0xFF#8 0xFF#8 =
      [0xFF#8, 0xFF#8, 0x09#8, 0xFF#8, 0xFF#8, 0xFF#8, 0xFF#8, 0xFF#8, 0xF6#8] ∧
    enc 0x6236#16 0x00#8 0x00#8 0x00#8 =
      [0x62#8, 0x36#8, 0x09#8, 0xFF#8, 0xFF#8, 0x00#8, 0x00#8, 0x00#8, 0x5D#8] := by decide

theorem test_decode_verdicts_accepted :
    verdict report100.toList 0x6233#16 false = (some 0x0064#16, 1#3) ∧
    verdict [0x62#8, 0x33#8, 0x09#8, 0xFF#8, 0xFF#8, 0x01#8, 0x00#8, 0xAA#8, 0xF3#8] 0x6233#16 false =
      (some 0x0100#16, 1#3) ∧
    verdict [0x62#8, 0x33#8, 0x08#8, 0xFF#8, 0xFF#8, 0x00#8, 0x64#8, 0x00#8, 0x3D#8] 0x6233#16 false =
      (some 0x0064#16, 1#3) ∧
    verdict [0x62#8, 0x33#8, 0x09#8, 0xFF#8, 0xFF#8, 0x64#8, 0x00#8, 0x00#8, 0x3C#8] 0x6233#16 false =
      (some 0x6400#16, 1#3) := by decide

theorem test_decode_verdicts_rejected :
    verdict [0x62#8, 0x33#8, 0x09#8, 0xFF#8, 0xFF#8, 0x00#8, 0x64#8, 0x00#8, 0x3D#8] 0x6233#16 false =
      (none, 4#3) ∧
    verdict [0x62#8, 0x34#8, 0x09#8, 0xFF#8, 0xFF#8, 0x00#8, 0x64#8, 0x00#8, 0x3C#8] 0x6233#16 false =
      (none, 3#3) ∧
    verdict report100.toList 0x6232#16 false = (none, 3#3) ∧
    verdict [0x62#8, 0x33#8, 0x09#8, 0x00#8, 0x01#8, 0x00#8, 0x64#8, 0x00#8, 0x3D#8] 0x6233#16 true =
      (none, 3#3) ∧
    verdict [0x62#8, 0x33#8, 0x08#8, 0xFF#8, 0xFF#8, 0x00#8, 0x64#8, 0x00#8, 0x3C#8] 0x6233#16 true =
      (none, 3#3) ∧
    verdict (report100.toList.take 8) 0x6233#16 false = (none, 2#3) ∧
    verdict [] 0x6233#16 false = (none, 2#3) := by decide

/-! ### Single steps (95_test_vectors.md 2.4, 2.5; the examples of R125, R127, R231) -/

theorem test_rx_byte_first :
    (nextOf (exec (.rxByte 0x62#8) { opened with linkIn := [0x62#8, 0x33#8] })).map
      (fun t => (t.buf[0], t.acc, t.cnt, t.linkIn, t.ph)) =
    some (0x62#8, 0x62#8, 1#4, [0x33#8], .rx) := by decide

theorem test_rx_byte_ninth :
    (nextOf (exec (.rxByte 0x3C#8) almost)).map
      (fun t => (t.cnt, t.ph, t.st, t.dv, t.dr, t.av)) =
    some (9#4, .idle, 1#3, 0x0064#16, 0x0064#16, true) := by decide

theorem test_rx_timeout_at_five :
    (nextOf (exec .rxTimeout { opened with cnt := 5#4, av := true })).map (fun t => (t.ph, t.st, t.cnt, t.av)) =
    some (.idle, 2#3, 5#4, true) := by decide

theorem test_rx_byte_in_closed_window_has_no_step :
    nextOf (exec (.rxByte 0x62#8) { idle with linkIn := [0x62#8] }) =
    some { idle with linkIn := [0x62#8], ret := some .noStep } := by decide

/-- R242: the window has closed, so the next step is RX_ARM's return, before the pending AVAIL. -/
theorem test_rx_arm_returns_when_its_window_closes :
    (nextOf (step { closed .rxArm with inputs := [.code [0x04#8]] })).map (fun t => (t.waiting, t.ret, t.inputs)) =
    some (none, some (.done .unit), [.code [0x04#8]]) := by decide

theorem test_get_distance_clears_available :
    (nextOf (exec .getDistance { idle with dv := 0x0064#16, dr := 0x0064#16, av := true })).map
      (fun t => (t.ret, t.av)) = some (some (.done (.distance 0x0064#16)), false) := by decide

theorem test_get_last_keeps_available :
    (nextOf (exec .getLast { idle with dv := 0xBEEF#16, dr := 0x1234#16, av := true })).map
      (fun t => (t.ret, t.av)) = some (some (.done (.distance 0x1234#16)), true) := by decide

theorem test_avail_in_open_window_faults :
    nextOf (exec .avail opened) =
    some { opened with flt := some .concurrentOp, ret := some (.fault .concurrentOp) } := by decide

theorem test_reset_in_open_window :
    (nextOf (exec .reset { opened with cnt := 4#4, av := true, linkIn := [0x64#8] })).map
      (fun t => (t.ph, t.cnt, t.av, t.st, t.linkIn)) = some (.idle, 0#4, false, 0#3, [0x64#8]) := by decide

theorem test_tx_frame_is_not_guarded :
    (nextOf (exec (.txFrame 0x6237#16 0x04#8 0x00#8 0x00#8) idle)).map (·.txlog) =
    some [0x62#8, 0x37#8, 0x09#8, 0xFF#8, 0xFF#8, 0x04#8, 0x00#8, 0x00#8, 0x58#8] := by decide

/-- The guards at their boundaries (95_test_vectors.md 2.6): what is appended to `TXLOG`. -/
theorem test_guards_reject :
    ([.cmdChangeAddress 0xFFFF#16, .cmdChangeBaud 10#8, .cmdSetUploadInterval 0#8, .cmdSetUploadInterval 101#8,
      .cmdSetLedMode 4#8, .cmdSetRelayMode 2#8, .cmdSetCommMode 2#8] : List Instr).all (fun i =>
        (nextOf (exec i idle)).map (fun t => (t.txlog, t.ret)) == some ([], some (.done .paramOutOfRange)))
      = true := by decide

theorem test_guards_accept :
    ([(.cmdChangeAddress 0xFFFE#16, [0x62#8, 0x32#8, 0x09#8, 0xFF#8, 0xFF#8, 0xFF#8, 0xFE#8, 0x00#8, 0x58#8]),
      (.cmdChangeBaud 9#8, [0x62#8, 0x30#8, 0x09#8, 0xFF#8, 0xFF#8, 0x09#8, 0x00#8, 0x00#8, 0x52#8]),
      (.cmdSetUploadInterval 1#8, [0x62#8, 0x35#8, 0x09#8, 0xFF#8, 0xFF#8, 0x01#8, 0x00#8, 0x00#8, 0x5F#8]),
      (.cmdSetUploadInterval 100#8, [0x62#8, 0x35#8, 0x09#8, 0xFF#8, 0xFF#8, 0x64#8, 0x00#8, 0x00#8, 0x3A#8]),
      (.cmdSetLedMode 3#8, [0x62#8, 0x37#8, 0x09#8, 0xFF#8, 0xFF#8, 0x03#8, 0x00#8, 0x00#8, 0x5F#8]),
      (.cmdSetRelayMode 1#8, [0x62#8, 0x38#8, 0x09#8, 0xFF#8, 0xFF#8, 0x01#8, 0x00#8, 0x00#8, 0x52#8]),
      (.cmdSetCommMode 1#8, [0x62#8, 0x31#8, 0x09#8, 0xFF#8, 0xFF#8, 0x01#8, 0x00#8, 0x00#8, 0x5B#8])]
      : List (Instr × List Byte)).all (fun r =>
        (nextOf (exec r.1 idle)).map (fun t => (t.txlog, t.ret)) == some (r.2, some (.done .ok)))
      = true := by decide

theorem test_restore_and_upload_mode :
    (nextOf (exec (.cmdRestoreFactory false) idle)).map (·.txlog) =
      some [0x62#8, 0x39#8, 0x09#8, 0xFF#8, 0xFF#8, 0xFD#8, 0x00#8, 0x00#8, 0xAF#8] ∧
    (nextOf (exec (.cmdSetUploadMode true) idle)).map (·.txlog) =
      some [0x62#8, 0x34#8, 0x09#8, 0xFF#8, 0xFF#8, 0x01#8, 0x00#8, 0x00#8, 0x5E#8] := by decide

/-- A report into a freshly armed window is accepted (R131); with no window open it waits (R45). -/
theorem test_report_row :
    (nextOf (exec (.distanceReportHdr 0x0064#16 0x00#8 0x3C#8) opened)).map
      (fun t => (t.ph, t.st, t.dv, t.av, t.linkIn)) = some (.idle, 1#3, 0x0064#16, true, []) ∧
    (nextOf (exec (.distanceReportHdr 0x0064#16 0x00#8 0x3C#8) idle)).map
      (fun t => (t.ph, t.st, t.linkIn)) = some (.idle, 0#3, report100.toList) := by decide

/-- The misaligned window of 95_test_vectors.md P3: four stale bytes wait, so the window takes them first and
leaves the last four of the new frame. -/
theorem test_report_behind_stale_bytes :
    (nextOf (exec (.distanceReportHdr 0x0065#16 0x00#8 0x3D#8)
        { opened with linkIn := [0x00#8, 0x64#8, 0x00#8, 0x3C#8] })).map
      (fun t => (t.st, t.acc, t.linkIn)) = some (3#3, 0xFF#8, [0x00#8, 0x65#8, 0x00#8, 0x3D#8]) := by decide

/-- P6, step 3, as a step of the machine; and an unassigned op code (R70). -/
theorem test_steps_that_fault :
    (nextOf (step { opened with inputs := [.code [0x04#8]] })).map (·.flt) = some (some .concurrentOp) ∧
    (nextOf (step { idle with inputs := [.code [0x08#8]] })).map (·.flt) = some (some .illegalOp) ∧
    (nextOf (step faulted)).isNone = true := by decide

/-- A program of several operations is read one after another (95_test_vectors.md P4: `14 65 14 64`). -/
theorem test_program_bytes_are_consumed :
    (nextOf (step { idle with inputs := [.code [0x14#8, 0x65#8, 0x14#8, 0x64#8]] })).map
      (fun t => (t.inputs, t.ret)) = some ([.code [0x14#8, 0x64#8]], some (.done .paramOutOfRange)) := by decide

/-- A frame of another id from the device reaches the window and is MALFORMED (R68). -/
theorem test_foreign_frame_is_malformed :
    (nextOf (step { opened with inputs := [.frame .deviceToHost
        #v[0x62#8, 0x34#8, 0x09#8, 0xFF#8, 0xFF#8, 0x00#8, 0x64#8, 0x00#8, 0x3B#8]] })).map
      (fun t => (t.st, t.ph)) = some (3#3, .idle) := by decide

/-! ### Witnesses: concrete values that meet the hypotheses of each statement, clause by clause -/

theorem witness_DecodeInvertsEncode :
    WellFormed (.distanceReport 0x08#8 0xFF#8 0xFF#8 0x0064#16 0x00#8 0x3D#8) ∧ WellFormed .rxTimeout := by decide

theorem witness_DecodeReadsOnlyEncodings :
    decode .opCode [0x81#8, 0x00#8] = .ok (.rxTimeout, [0x00#8]) ∧
    decode (.frame .deviceToHost) report100.toList = .ok (.distanceReportHdr 0x0064#16 0x00#8 0x3C#8, []) ∧
    decode (.frame .hostToDevice) (sentBytes 0x33#8 0x00#8 0x00#8 0x58#8) = .ok (.readDistanceReq, []) :=
  ⟨rfl, rfl, rfl⟩

theorem witness_UnlistedOpCodesSpellNothing :
    0x08#8 ∉ [0x00#8, 0x01#8, 0x02#8, 0x03#8, 0x04#8, 0x05#8, 0x06#8, 0x07#8, 0x10#8, 0x11#8, 0x12#8, 0x13#8,
      0x14#8, 0x15#8, 0x16#8, 0x17#8, 0x80#8, 0x81#8] ∧
    (0x10#8 = 0x10#8 ∨ 0x10#8 = 0x13#8) ∧ 0x02#8 ≠ 0x00#8 ∧ 0x02#8 ≠ 0x01#8 := by decide

theorem witness_IllegalEncodingFaults :
    idle.flt = none ∧ idle.callDue = none ∧
    { idle with inputs := [.code [0x08#8]] }.inputs = .code (0x08#8 :: []) :: [] ∧
    decode .opCode (0x08#8 :: []) = .error (.unknownOpCode 0x08#8) := ⟨rfl, rfl, rfl, rfl⟩

theorem witness_ChkIsTheXorFold : [0x62#8, 0x33#8].Perm [0x33#8, 0x62#8] := by decide

/-- A valid frame; one that differs in two bytes of one column; one that differs in byte 6 alone. -/
theorem witness_ChecksumPassesEvenErrors :
    report100[8] = chk (report100.toList.take 8) ∧
    (∀ k, k < 8 → ((List.zipWith (· ^^^ ·) report100.toList
      [0x62#8, 0x33#8, 0x09#8, 0xFF#8, 0xFF#8, 0x01#8, 0x65#8, 0x00#8, 0x3C#8]).countP (·.getLsbD k)) % 2 = 0) ∧
    0x65#8 ≠ report100[6] := by decide

/-- Each clause: too short, wrong high id byte, wrong low id byte, wrong header, wrong checksum, all right. -/
theorem witness_DecodeChecksInOrder :
    (report100.toList.take 8).length < 9 ∧
    report100[0] ≠ (0x6333#16).extractLsb' 8 8 ∧
    (report100[0] = (0x6234#16).extractLsb' 8 8 ∧ report100[1] ≠ (0x6234#16).extractLsb' 0 8) ∧
    ((report100.set 2 0x08#8)[0] = (0x6233#16).extractLsb' 8 8 ∧
      (report100.set 2 0x08#8)[1] = (0x6233#16).extractLsb' 0 8 ∧ (report100.set 2 0x08#8)[2] ≠ 0x09#8) ∧
    ((report100.set 8 0x3D#8)[2] = 0x09#8 ∧ (report100.set 8 0x3D#8)[3] = 0xFF#8 ∧
      (report100.set 8 0x3D#8)[4] = 0xFF#8 ∧
      (report100.set 8 0x3D#8)[8] ≠ chk ((report100.set 8 0x3D#8).toList.take 8)) ∧
    report100[8] = chk (report100.toList.take 8) := by decide

theorem witness_ResetRestoresIdle : faulted.flt = some .concurrentOp ∧ idle.flt = none ∧ opened.flt = none := by
  decide

/-- The three cases of every host operation: faulted, window open, free to run; and the default table. It
serves TxFrameSendsAnyFrame, RxArmOpensAWindow, ReadDistanceIssues, ReadDistanceIsTxFrameThenRxArm,
AvailReturnsTheFlag, GetDistanceConsumes, GetLastReadsWithoutConsuming, GetStatusReturnsTheCode, the eight
command statements, CommandFrameRowsSend, FixedFrameRowsSend, FailedGuardSendsNothing, OverlappingOperationsFault,
FaultedCodecIsStuck and LiveCodecAlwaysRuns. -/
theorem witness_host_operation_cases :
    faulted.flt = some .concurrentOp ∧
    (opened.flt = none ∧ opened.ph = .rx ∧ opened.cmdTable = Config.defaultCmdTable) ∧
    (idle.flt = none ∧ idle.ph = .idle ∧ idle.cmdTable = Config.defaultCmdTable) := by decide

theorem witness_TxFrameSendsAnyFrame : idle.flt = none ∧ idle.ph = .idle ∧ opened.ph = .rx := by decide
theorem witness_RxArmOpensAWindow :
    (idle.flt = none ∧ idle.ph = .idle ∧ opened.ph = .rx) ∧
    ((closed .rxArm).flt = none ∧ (closed .rxArm).waiting = some .rxArm ∧ (closed .rxArm).ph = .idle) ∧
    ((awaiting .rxArm).flt = none ∧ (awaiting .rxArm).waiting = some .rxArm ∧ (awaiting .rxArm).ph = .rx ∧
      (awaiting .rxArm).inputs = []) := by decide
theorem witness_FaultedCodecIsStuck : faulted.flt = some .concurrentOp := by decide
theorem witness_LiveCodecAlwaysRuns : idle.flt = none ∧ opened.flt = none := by decide

theorem witness_OverlappingOperationsFault :
    opened.flt = none ∧ opened.ph = .rx ∧ (Instr.avail.isHostOp = true ∧ Instr.avail ≠ .reset) ∧
    Instr.readDistanceReq.isSentFrame = true := by decide

/-- The first byte and the eighth. -/
theorem witness_RxByteStoresAndFolds :
    opened.cnt.toNat < 8 ∧ { opened with cnt := 7#4 }.cnt.toNat < 8 ∧ opened.flt = none ∧ opened.ph = .rx ∧
    { opened with linkIn := [0x62#8] }.linkIn = 0x62#8 :: [] := by decide

/-- Both verdicts of the ninth byte. -/
theorem witness_NinthByteClosesTheWindow :
    almost.flt = none ∧ almost.ph = .rx ∧ almost.cnt = 8#4 ∧ almost.linkIn = 0x3C#8 :: [] ∧
    fDecode (almost.buf.set 8 0x3C#8).toList almost.exp almost.hdr = .ok 0x0064#16 ∧
    fDecode (almost.buf.set 8 0x3D#8).toList almost.exp almost.hdr = .error stChecksumMismatch :=
  ⟨rfl, rfl, rfl, rfl, rfl, rfl⟩

/-- The first count and the last. -/
theorem witness_RxTimeoutIsAShortRead :
    opened.flt = none ∧ opened.ph = .rx ∧ opened.cnt < 9#4 ∧ almost.ph = .rx ∧ almost.cnt < 9#4 := by decide

/-- Each way of being disabled: closed, full, nothing waiting, another byte waiting. -/
theorem witness_DisabledLineEventsHaveNoStep :
    idle.flt = none ∧ idle.ph = .idle ∧ 9#4 ≤ { opened with cnt := 9#4 }.cnt ∧ opened.linkIn = [] ∧
    (almost.linkIn = 0x3C#8 :: [] ∧ 0x3C#8 ≠ 0x3D#8) := by decide

theorem witness_SerialReceiverComputesDecode :
    idle.flt = none ∧ idle.ph = .idle ∧
    { idle with linkIn := report100.toList ++ [0x62#8] }.linkIn = report100.toList ++ [0x62#8] := by decide

/-- No byte, and eight. -/
theorem witness_ShortWindowRecordsShortRead :
    ([] : List Byte).length < 9 ∧ (report100.toList.take 8).length < 9 ∧ idle.flt = none ∧ idle.ph = .idle ∧
    idle.linkIn = [] ++ [] ∧
    { idle with linkIn := report100.toList.take 8 }.linkIn = report100.toList.take 8 ++ [] := by decide

theorem witness_DistanceRoundTrip :
    idle.flt = none ∧ idle.ph = .idle ∧
    { idle with linkIn := report100.toList }.linkIn =
      enc 0x6233#16 ((0x0064#16).extractLsb' 8 8) ((0x0064#16).extractLsb' 0 8) 0x00#8 ++ [] := by decide

theorem witness_ReportRowsAreTakenAndJudged :
    report100.toList = report 0x09#8 0xFF#8 0xFF#8 0x0064#16 0x00#8 0x3C#8 ∧
    (report100.set 2 0x08#8).toList = report 0x08#8 0xFF#8 0xFF#8 0x0064#16 0x00#8 0x3C#8 ∧
    (opened.flt = none ∧ opened.ph = .rx ∧ opened.cnt = 0#4 ∧ opened.acc = 0x00#8 ∧ opened.linkIn = []) ∧
    (idle.flt = none ∧ idle.ph = .idle) := by decide

theorem witness_ReadDistanceIssues :
    opened.cmdTable = Config.defaultCmdTable ∧ idle.cmdTable = Config.defaultCmdTable ∧ idle.flt = none ∧
    idle.ph = .idle := by decide

theorem witness_ReadDistanceReturnsTheReading :
    ((closed .readDistance).flt = none ∧ (closed .readDistance).waiting = some .readDistance ∧
      (closed .readDistance).ph = .idle) ∧
    ((awaiting .readDistance).flt = none ∧ (awaiting .readDistance).waiting = some .readDistance ∧
      (awaiting .readDistance).ph = .rx ∧ (awaiting .readDistance).inputs = []) := by decide

theorem witness_ReadDistanceIsTxFrameThenRxArm :
    idle.cmdTable = Config.defaultCmdTable ∧ idle.flt = none ∧ idle.ph = .idle := by decide

/-- RESET has a next state, so the reading statements' clauses about what follows it are met. -/
theorem witness_reading_after_reset : ∃ t, exec .reset opened = .next t := ⟨_, rfl⟩

theorem witness_GetStatusReturnsTheCode :
    opened.ph = .rx ∧ opened.cnt < 9#4 ∧ ∃ t, exec .rxTimeout opened = .next t := ⟨rfl, by decide, _, rfl⟩

theorem witness_ReadingIsConsumedOnce :
    { idle with av := true, dv := 0x0064#16, dr := 0x0064#16 }.flt = none ∧
    { idle with av := true, dv := 0x0064#16, dr := 0x0064#16 }.ph = .idle ∧
    { idle with av := true, dv := 0x0064#16, dr := 0x0064#16 }.av = true ∧
    { idle with av := true, dv := 0x0064#16, dr := 0x0064#16 }.dv = 0x0064#16 ∧
    { idle with av := true, dv := 0x0064#16, dr := 0x0064#16 }.dr = 0x0064#16 := by decide

theorem witness_FailureKindsLookAlike :
    idle.flt = none ∧ idle.ph = .idle ∧ (closed .readDistance).waiting = some .readDistance := by decide

/-- Each guard at its last passing and first failing value. -/
theorem witness_command_guards :
    ((0xFFFE#16).toNat ≤ 0xFFFE ∧ ¬ (0xFFFF#16).toNat ≤ 0xFFFE) ∧ ((9#8).toNat ≤ 9 ∧ ¬ (10#8).toNat ≤ 9) ∧
    ((1 ≤ (1#8).toNat ∧ (100#8).toNat ≤ 100) ∧ ¬ 1 ≤ (0#8).toNat ∧ ¬ (101#8).toNat ≤ 100) ∧
    ((3#8).toNat ≤ 3 ∧ ¬ (4#8).toNat ≤ 3) ∧ ((1#8).toNat ≤ 1 ∧ ¬ (2#8).toNat ≤ 1) ∧
    ((0x01#8 = 0x00#8 ∨ 0x01#8 = 0x01#8) ∧ ¬ (0x02#8 = 0x00#8 ∨ 0x02#8 = 0x01#8)) := by decide

theorem witness_FailedGuardSendsNothing :
    idle.flt = none ∧ idle.ph = .idle ∧ 0xFFFE < (0xFFFF#16).toNat ∧ 9 < (10#8).toNat ∧
    ((0#8).toNat < 1 ∧ 100 < (101#8).toNat) ∧ 3 < (4#8).toNat ∧ 1 < (2#8).toNat := by decide

theorem witness_CommandIsGuardThenTxFrame :
    idle.flt = none ∧ idle.ph = .idle ∧ 0xFFFE#16 ≠ 0xFFFF#16 ∧ (9#8).toNat ≤ 9 ∧
    (1 ≤ (100#8).toNat ∧ (100#8).toNat ≤ 100) ∧ (3#8).toNat ≤ 3 ∧ (1#8).toNat ≤ 1 := by decide

theorem witness_StepRunsTheDecodedInstruction :
    idle.flt = none ∧ idle.callDue = none ∧
    { idle with inputs := [.code [0x04#8, 0x05#8]] }.inputs = .code [0x04#8, 0x05#8] :: [] ∧
    decode .opCode [0x04#8, 0x05#8] = .ok (.avail, [0x05#8]) ∧
    { idle with inputs := [.frame .deviceToHost report100] }.inputs = .frame .deviceToHost report100 :: [] ∧
    decode (.frame .deviceToHost) report100.toList = .ok (.distanceReportHdr 0x0064#16 0x00#8 0x3C#8, []) :=
  ⟨rfl, rfl, rfl, rfl, rfl, rfl⟩

theorem witness_StepRunsTheTableWord :
    idle.flt = none ∧ decodeTableWord 24 0x026233 = some (.rxArm 0x6233#16) := by decide

theorem witness_QuietStepsLeaveTheCodecAlone :
    idle.flt = none ∧ idle.callDue = none ∧ idle.inputs = [] ∧
    { idle with inputs := [.arrive [0x62#8]] }.inputs = .arrive [0x62#8] :: [] := by decide

/-- A state with an open window and a byte waiting meets both invariants and steps. -/
theorem witness_StepKeepsTheInvariant :
    { opened with inputs := [.code [0x80#8, 0x62#8]], linkIn := [0x62#8] }.Inv ∧
    { opened with inputs := [.code [0x80#8, 0x62#8]], linkIn := [0x62#8] }.LastWindow ∧
    ∃ t, step { opened with inputs := [.code [0x80#8, 0x62#8]], linkIn := [0x62#8] } = .next t :=
  ⟨⟨by decide, fun _ => by decide, rfl, by decide, fun _ => rfl, [], rfl⟩,
    ⟨nofun, nofun, nofun, nofun, nofun⟩, _, rfl⟩

theorem witness_StepKeepsTheLastWindow :
    idle.Inv ∧ idle.LastWindow ∧ ∃ t, step idle = .next t :=
  ⟨⟨by decide, fun _ => by decide, rfl, by decide, fun _ => rfl, [], rfl⟩,
    ⟨fun _ _ => rfl, fun _ h => absurd h (by decide), fun _ h => absurd h (by decide),
      fun _ h => absurd h (by decide), fun _ h => absurd h (by decide)⟩, _, rfl⟩

/-- A run in which RX_ARM's window times out and RX_ARM returns: it meets the fairness assumption. -/
def timedOutRun : Nat → State
  | 0 => { awaiting .rxArm with inputs := [.code [0x81#8]] }
  | 1 => { closed .rxArm with exp := 0x6233#16, st := 2#3, ret := some (.done .unit) }
  | _ + 2 => { idle with exp := 0x6233#16, st := 2#3, ret := some (.done .unit) }

theorem witness_WaitsEndUnderTheFairnessAssumption :
    Run timedOutRun ∧ (timedOutRun 0).Inv ∧ TimeoutFair timedOutRun ∧ (timedOutRun 0).ph = .rx ∧
    (timedOutRun 0).waiting = some .rxArm ∧ ∃ t, step (timedOutRun 0) = .next t := by
  refine ⟨?_, ⟨by decide, fun _ => by decide, rfl, by decide, fun _ => rfl, [], rfl⟩, ?_, rfl, rfl, _, rfl⟩
  · intro n
    match n with
    | 0 | 1 | _ + 2 => exact ⟨_, [], rfl, rfl⟩
  · intro n hn
    match n with
    | 0 => exact ⟨0, le_rfl, .inr (.inl rfl)⟩
    | 1 | _ + 2 => cases hn

/-- The hang of 93_implementation_defined.md U8: without a byte and a timeout a window stays open for ever. It
is a run of the machine, and the fairness assumption excludes it (R242). -/
theorem test_endless_window_is_not_fair :
    Run (fun _ => awaiting .rxArm) ∧ ¬ TimeoutFair (fun _ => awaiting .rxArm) := by
  refine ⟨fun _ => ⟨_, [], rfl, rfl⟩, fun h => ?_⟩
  obtain ⟨m, -, ⟨-, hb⟩ | hb | hb⟩ := h 0 rfl
  · exact absurd hb (by decide : ¬ (0#4 < 0#4))
  · cases hb
  · cases hb

/-- Next states of each kind: for ReadingChangesOnlyByAcceptance, AvailableFlagDiscipline,
OnlyWholeFramesAreSent, LinkInIsAFifo and AccessSummaryHolds. `AV` rises, falls, is read and is kept. -/
theorem witness_next_states :
    (∃ t, exec (.rxByte 0x3C#8) almost = .next t ∧ almost.av = false ∧ t.av = true) ∧
    (∃ t, exec .getDistance { idle with av := true } = .next t ∧ t.av = false) ∧
    (∃ t, exec .avail idle = .next t) ∧
    (∃ t, exec .rxTimeout opened = .next t ∧ t.st ≠ 1#3) ∧
    ∃ t, exec .readDistance idle = .next t :=
  ⟨⟨_, rfl, rfl, rfl⟩, ⟨_, rfl, rfl⟩, ⟨_, rfl⟩, ⟨_, rfl, by decide⟩, _, rfl⟩

end Sys2Proof.Tests
end

section
/-! The decoder and the encoder, whole: each undoes the other. Assembled from the lemma of each reader
(Laws/Decode) and the round trip of each instruction (Laws/PerInstr). -/

namespace Sys2Proof

/-- What the sent-frame decoder answers is written with these very bytes. -/
theorem decodeSent_ok {bs rest : List Byte} {i : Instr} (h : decodeSent bs = .ok (i, rest)) :
    WellFormed i ∧ i.format = .frame .hostToDevice ∧ bs = encode i ++ rest := by
  unfold decodeSent at h
  split at h
  · split_ifs at h with hconst
    obtain ⟨rfl, rfl, rfl, rfl, rfl⟩ := hconst
    split at h
    · rename_i hrow
      cases h
      obtain ⟨hformat, hwf, hbytes⟩ := sentRow_some hrow
      exact ⟨hwf, hformat, by rw [hbytes]; rfl⟩
    · cases h
  · cases h

/-- What the received-frame decoder answers is written with these very bytes. -/
theorem decodeReceived_ok {bs rest : List Byte} {i : Instr} (h : decodeReceived bs = .ok (i, rest)) :
    WellFormed i ∧ i.format = .frame .deviceToHost ∧ bs = encode i ++ rest := by
  unfold decodeReceived at h
  split at h
  · split_ifs at h with hid hheader
    · obtain ⟨rfl, rfl⟩ := hid
      obtain ⟨rfl, rfl, rfl⟩ := hheader
      cases h
      exact ⟨rfl, rfl, by simp [encode, reportBytes]⟩
    · obtain ⟨rfl, rfl⟩ := hid
      cases h
      exact ⟨by simpa [WellFormed, Instr.wf, or_assoc, imp_iff_not_or] using hheader, rfl,
        by simp [encode, reportBytes]⟩
  · cases h

/-- What the decoder answers, in any format, is well-formed and written with these very bytes. -/
theorem decode_ok {f : Format} {bs rest : List Byte} {i : Instr} (h : decode f bs = .ok (i, rest)) :
    WellFormed i ∧ i.format = f ∧ bs = encode i ++ rest := by
  match f, bs with
  | .opCode, [] => cases h
  | .opCode, _ :: _ => exact decodeOp_ok h
  | .frame .hostToDevice, _ => exact decodeSent_ok h
  | .frame .deviceToHost, _ => exact decodeReceived_ok h

/-- Every well-formed instruction, followed by anything, is read back. -/
theorem decode_encode_append {i : Instr} (hi : WellFormed i) (rest : List Byte) :
    decode i.format (encode i ++ rest) = .ok (i, rest) := by
  suffices Laws.RoundTrip.Statement i from this hi rest
  cases i with
  | restoreFactoryHard => exact Laws.RoundTrip.restoreFactoryHard
  | restoreFactorySoft => exact Laws.RoundTrip.restoreFactorySoft
  | changeAddress a c => exact Laws.RoundTrip.changeAddress a c
  | changeBaud v c => exact Laws.RoundTrip.changeBaud v c
  | setUploadMode v c => exact Laws.RoundTrip.setUploadMode v c
  | setUploadInterval v c => exact Laws.RoundTrip.setUploadInterval v c
  | setLedMode v c => exact Laws.RoundTrip.setLedMode v c
  | setRelayMode v c => exact Laws.RoundTrip.setRelayMode v c
  | setCommMode v c => exact Laws.RoundTrip.setCommMode v c
  | readDistanceReq => exact Laws.RoundTrip.readDistanceReq
  | distanceReport len ah al d p2 c => exact Laws.RoundTrip.distanceReport len ah al d p2 c
  | distanceReportHdr d p2 c => exact Laws.RoundTrip.distanceReportHdr d p2 c
  | reset => exact Laws.RoundTrip.reset
  | txFrame cmd p0 p1 p2 => exact Laws.RoundTrip.txFrame cmd p0 p1 p2
  | rxArm expected => exact Laws.RoundTrip.rxArm expected
  | readDistance => exact Laws.RoundTrip.readDistance
  | avail => exact Laws.RoundTrip.avail
  | getDistance => exact Laws.RoundTrip.getDistance
  | getLast => exact Laws.RoundTrip.getLast
  | getStatus => exact Laws.RoundTrip.getStatus
  | cmdRestoreFactory hard => exact Laws.RoundTrip.cmdRestoreFactory hard
  | cmdChangeAddress addr => exact Laws.RoundTrip.cmdChangeAddress addr
  | cmdChangeBaud code => exact Laws.RoundTrip.cmdChangeBaud code
  | cmdSetUploadMode auto => exact Laws.RoundTrip.cmdSetUploadMode auto
  | cmdSetUploadInterval n => exact Laws.RoundTrip.cmdSetUploadInterval n
  | cmdSetLedMode mode => exact Laws.RoundTrip.cmdSetLedMode mode
  | cmdSetRelayMode mode => exact Laws.RoundTrip.cmdSetRelayMode mode
  | cmdSetCommMode mode => exact Laws.RoundTrip.cmdSetCommMode mode
  | rxByte b => exact Laws.RoundTrip.rxByte b
  | rxTimeout => exact Laws.RoundTrip.rxTimeout

/-- The encoding alone is read back, with nothing left. -/
theorem decode_encode {i : Instr} (hi : WellFormed i) : decode i.format (encode i) = .ok (i, []) := by
  simpa using decode_encode_append hi []

/-- A frame has nine bytes (R60). -/
theorem encode_length_of_frame {i : Instr} {d : Direction} (h : i.format = .frame d) :
    (encode i).length = 9 := by
  cases i with
  | restoreFactoryHard | restoreFactorySoft | changeAddress | changeBaud | setUploadMode
  | setUploadInterval | setLedMode | setRelayMode | setCommMode | readDistanceReq
  | distanceReport | distanceReportHdr => rfl
  | _ => cases h

/-- A frame is used up whole. -/
theorem decode_frame_left_nil {d : Direction} {f : Vector Byte 9} {i : Instr} {left : List Byte}
    (h : decode (.frame d) f.toList = .ok (i, left)) : left = [] := by
  obtain ⟨-, hformat, hbytes⟩ := decode_ok h
  have hlen := congrArg List.length hbytes
  simp only [Vector.length_toList, List.length_append, encode_length_of_frame hformat] at hlen
  exact List.length_eq_zero_iff.1 (by omega)

/-! ### Table words (log 16, 22) -/

/-- A table word that stands for `i` begins with the encoding of `i`, in the format of the word. -/
theorem decodeTableWord_some {nbits w : Nat} {i : Instr} (h : decodeTableWord nbits w = some i) :
    ∃ rest, decode (tableFormat nbits w) (paddedBytes nbits w) = .ok (i, rest) ∧ WellFormed i ∧
      i.format = tableFormat nbits w ∧ paddedBytes nbits w = encode i ++ rest := by
  unfold decodeTableWord at h
  split at h
  · rename_i j rest hdec
    split_ifs at h
    cases h
    exact ⟨rest, hdec, decode_ok hdec⟩
  · cases h

/-- Only a 72-bit word is a frame. -/
theorem nbits_of_tableFormat_frame {nbits w : Nat} {d : Direction} (h : tableFormat nbits w = .frame d) :
    nbits = 72 := by
  by_contra hn
  simp [tableFormat, hn] at h

/-- The bytes taken from a table word are the encoding of its instruction. -/
theorem tableInstrBytes_eq_encode {nbits w : Nat} {i : Instr} (h : decodeTableWord nbits w = some i) :
    tableInstrBytes nbits w = encode i := by
  obtain ⟨rest, hdec, -, -, hbytes⟩ := decodeTableWord_some h
  unfold tableInstrBytes
  rw [hdec]
  simp [hbytes]

/-- The nine bytes of a frame word are the encoding of its instruction. -/
theorem tableBytes_eq_encode_of_frame {nbits w : Nat} {i : Instr} {d : Direction}
    (h : decodeTableWord nbits w = some i) (hd : tableFormat nbits w = .frame d) :
    tableBytes 9 w = encode i := by
  obtain ⟨rest, -, -, hformat, hbytes⟩ := decodeTableWord_some h
  rw [nbits_of_tableFormat_frame hd] at hbytes
  have hlen : (tableBytes 9 w).length = (encode i).length := by
    rw [encode_length_of_frame (hformat.trans hd)]; simp [tableBytes]
  exact (List.append_inj hbytes hlen).1

end Sys2Proof

namespace Sys2Proof.Machine

theorem inputInstr_code {bs left : List Byte} {i : Instr} (h : decode .opCode bs = .ok (i, left)) :
    inputInstr (.code bs) = some (i, left) := by
  simp [inputInstr, h, Except.toOption]

theorem inputInstr_frame {d : Direction} {f : Vector Byte 9} {left : List Byte} {i : Instr}
    (h : decode (.frame d) f.toList = .ok (i, left)) : inputInstr (.frame d f) = some (i, left) := by
  simp [inputInstr, h, Except.toOption]

/-- The input that holds a table word spells the word's instruction, and nothing is left of it. -/
theorem inputInstr_tableInput {nbits w : Nat} {i : Instr} (h : decodeTableWord nbits w = some i) :
    inputInstr (tableInput nbits w) = some (i, []) := by
  obtain ⟨-, -, hwf, hformat, -⟩ := decodeTableWord_some h
  have hdec := decode_encode hwf
  rw [hformat] at hdec
  cases hf : tableFormat nbits w with
  | opCode =>
    simp only [tableInput, hf, tableInstrBytes_eq_encode h]
    exact inputInstr_code (hf ▸ hdec)
  | frame d =>
    have hvec : (Vector.ofFn fun k : Fin 9 => tableByte 9 w k.val).toList = encode i := by
      rw [← tableBytes_eq_encode_of_frame h hf]
      rfl
    simp only [tableInput, hf]
    exact inputInstr_frame (hvec ▸ hf ▸ hdec)

/-! ### What a step runs -/

section Step

variable {s : State} (hf : s.flt = none) (hc : s.callDue = none)
include hf hc

/-- With nothing pending a step changes nothing (R18). -/
theorem step_of_no_input (hin : s.inputs = []) : step s = .next s := by
  simp [step, whenLive_live hf, hc, hin]

/-- A step runs the instruction the first input spells. -/
theorem step_of_inputInstr {inp : Input} {is : List Input} {i : Instr} {left : List Byte}
    (hin : s.inputs = inp :: is) (hi : inputInstr inp = some (i, left)) :
    step s = exec i (s.withInputs (pushBack left is)) := by
  simp [step, whenLive_live hf, hc, hin, hi]

/-- A step takes a first input that spells no instruction. -/
theorem step_of_otherInput {inp : Input} {is : List Input} (hin : s.inputs = inp :: is)
    (hi : inputInstr inp = none) : step s = otherInput inp (s.withInputs is) := by
  simp [step, whenLive_live hf, hc, hin, hi]

end Step

/-- A placed input is not held up by a waiting operation (log 3). -/
theorem callDue_withNextInput (s : State) (inp : Input) : (s.withNextInput inp).callDue = none := by
  cases hp : s.ph with
  | idle => exact (callDue_idle (s := s.withNextInput inp) hp).trans (by simp [State.withNextInput, hp])
  | rx => exact callDue_rx hp

/-- With a placed input taken, only the wait for a closed window is gone. -/
theorem withNextInput_withInputs (s : State) (inp : Input) :
    (s.withNextInput inp).withInputs s.inputs =
      { s with waiting := if s.ph = .idle then none else s.waiting } := by
  cases hp : s.ph <;> simp [State.withNextInput, State.withInputs, hp]

/-! ### A live codec always answers a next state -/

theorem whenLive_runs {s : State} {k : Result} (hf : s.flt = none) (hk : ∃ t, k = .next t) :
    ∃ t, whenLive s k = .next t := by
  rwa [whenLive_live hf]

theorem hostOp_runs {s : State} {k : Result} (hf : s.flt = none) (hk : ∃ t, k = .next t) :
    ∃ t, hostOp s k = .next t := by
  cases hp : s.ph with
  | idle => rwa [hostOp_idle hf hp]
  | rx => exact ⟨_, hostOp_open hf hp⟩

theorem sendCommand_runs {s : State} (g : Bool) (frame : List Byte) (hf : s.flt = none) :
    ∃ t, sendCommand g frame s = .next t := by
  refine hostOp_runs hf ?_
  cases g <;> exact ⟨_, rfl⟩

/-- Every instruction answers a next state from a live codec (R16). -/
theorem exec_runs (i : Instr) {s : State} (hf : s.flt = none) : ∃ t, exec i s = .next t := by
  cases i with
  | restoreFactoryHard | restoreFactorySoft | changeAddress | changeBaud | setUploadMode
  | setUploadInterval | setLedMode | setRelayMode | setCommMode
  | cmdRestoreFactory | cmdChangeAddress | cmdChangeBaud | cmdSetUploadMode | cmdSetUploadInterval
  | cmdSetLedMode | cmdSetRelayMode | cmdSetCommMode => exact sendCommand_runs _ _ hf
  | readDistanceReq | txFrame | rxArm | readDistance | avail | getDistance | getLast | getStatus =>
    exact hostOp_runs hf ⟨_, rfl⟩
  | distanceReport | distanceReportHdr => exact ⟨_, receiveFrame_live _ hf⟩
  | reset => exact whenLive_runs hf ⟨_, rfl⟩
  | rxByte | rxTimeout =>
    refine whenLive_runs hf ?_
    split_ifs <;> exact ⟨_, rfl⟩

/-- `FLT` is left alone, or raised by the concurrency rule (R211). -/
theorem Effect.flt_cases {s t : State} {i : Instr} (h : Effect s i t) :
    t.flt = s.flt ∨ (t.flt = some .concurrentOp ∧ s.ph = .rx ∧
      (i.isHostOp = true ∨ i.isSentFrame = true) ∧ i ≠ .reset) := by
  cases h with
  | overlap hp hi hr => exact .inr ⟨rfl, hp, hi, hr⟩
  | byte | report => exact .inl (by simp)
  | _ => exact .inl rfl

end Sys2Proof.Machine

/-! ### The statements of spec/00_scope.md -/

namespace Sys2Proof.Proofs

open Sys2Proof.Machine

/-- Settles O48: totality of `exec` on live states, and the inversion of `exec` for what `FLT` then holds. -/
theorem liveCodecAlwaysRuns : Obligations.LiveCodecAlwaysRuns := by
  intro i s hf
  obtain ⟨t, ht⟩ := exec_runs i hf
  have hflt := (exec_next ht).2.flt_cases
  rw [hf] at hflt
  exact ⟨t, ht, hflt⟩

/-- Settles O50: the placed word spells its instruction whole, and nothing stands before it. -/
theorem stepRunsTheTableWord : Obligations.StepRunsTheTableWord := by
  intro s nbits w i hf hw
  calc step (s.withFetchWord nbits w)
      = exec i ((s.withNextInput (tableInput nbits w)).withInputs (pushBack [] s.inputs)) :=
        step_of_inputInstr (s := s.withNextInput _) hf (callDue_withNextInput s _) rfl
          (inputInstr_tableInput hw)
    _ = exec i { s with waiting := if s.ph = .idle then none else s.waiting } :=
        congrArg (exec i) (withNextInput_withInputs s _)

/-- Settles O49: for a frame, because it has nine bytes and its instruction uses all of them. -/
theorem stepRunsTheDecodedInstruction : Obligations.StepRunsTheDecodedInstruction := by
  refine ⟨fun s bs left is i hf hc hin hd => ?_, fun s d f left is i hf hc hin hd => ?_⟩
  · exact step_of_inputInstr hf hc hin (inputInstr_code hd)
  · obtain rfl := decode_frame_left_nil hd
    exact step_of_inputInstr hf hc hin (inputInstr_frame hd)

/-- Settles O51: arriving bytes spell no instruction. -/
theorem quietStepsLeaveTheCodecAlone : Obligations.QuietStepsLeaveTheCodecAlone := fun _ hf hc =>
  ⟨step_of_no_input hf hc, fun _ _ hin => step_of_otherInput hf hc hin rfl⟩

end Sys2Proof.Proofs
end

section
/-! The state invariants, and what each instruction writes: spec/10_state.md. A predicate on states that reads
the registers alone and that every register-writing operation keeps is kept by every step; both invariants of
Safety are two uses of that. What happens to the reading and to `AV` is said once, for all instructions. -/

namespace Sys2Proof.Machine

/-! ### What every step keeps -/

/-- The state with the queues and the bookkeeping emptied: what the two invariants of Safety read. -/
def State.registers (s : State) : State :=
  { s with flt := none, linkIn := [], waiting := none, ret := none, inputs := [] }

/-- `P` reads the registers alone, and every operation that writes one keeps it. -/
structure KeptByOps (P : State → Prop) : Prop where
  registers_iff : ∀ s : State, P s.registers ↔ P s
  resetOp : ∀ {s : State}, P s → P s.resetOp
  tx : ∀ {s : State} {cmd : Word16} {p0 p1 p2 : Byte}, P s → P (s.tx (enc cmd p0 p1 p2))
  consume : ∀ {s : State}, P s → P s.consume
  arm : ∀ {s : State} {e : Word16}, P s → P (s.arm e)
  takeByte : ∀ {s : State} {b : Byte}, P s → s.ph = .rx → s.cnt < 9#4 → P (s.takeByte b)
  shortRead : ∀ {s : State}, P s → s.cnt < 9#4 → P (s.reject stShortRead)

namespace KeptByOps

variable {P : State → Prop} (hP : KeptByOps P)
include hP

/-- Queues and bookkeeping do not matter to `P`. -/
theorem of_registers_eq {s t : State} (hs : P s) (h : t.registers = s.registers) : P t :=
  (hP.registers_iff t).1 (h ▸ (hP.registers_iff s).2 hs)

/-- The bytes of a device frame arrive and are handed over. -/
theorem receive {s : State} {bs : List Byte} {r : Option Report} (hs : P s) :
    P (((s.arrive bs).deliver 9).withRet r) := by
  have harrive : P (s.arrive bs) := hP.of_registers_eq hs rfl
  have hdeliver := deliver_keeps (fun _ _ h hp hc _ => hP.takeByte h hp hc) 9 _ harrive
  exact hP.of_registers_eq hdeliver rfl

/-- An instruction keeps `P`: each of the eleven effects is made of operations that keep it. -/
theorem effect {s t : State} {i : Instr} (hs : P s) (h : Effect s i t) : P t := by
  cases h with
  | overlap | answered | disabled => exact hP.of_registers_eq hs rfl
  | reset => exact hP.of_registers_eq (hP.resetOp hs) rfl
  | sent => exact hP.of_registers_eq (hP.tx hs) rfl
  | consumed => exact hP.of_registers_eq (hP.consume hs) rfl
  | armed => exact hP.of_registers_eq (hP.arm hs) rfl
  | issued => exact hP.of_registers_eq (hP.arm (hP.tx hs)) rfl
  | byte b hp hc => exact hP.of_registers_eq (hP.takeByte hs hp hc) rfl
  | timeout _ hc => exact hP.of_registers_eq (hP.shortRead hs hc) rfl
  | report => exact hP.receive hs

/-- An input that spells no instruction keeps `P`. -/
theorem otherInput {s t : State} {inp : Input} (hs : P s) (h : otherInput inp s = .next t) : P t := by
  obtain ⟨bs, rfl⟩ | rfl | rfl | ⟨bs, rfl⟩ := otherInput_next h
  · exact hP.of_registers_eq hs rfl
  · exact hs
  · exact hP.of_registers_eq hs rfl
  · exact hP.receive hs

/-- Every step keeps `P`: the induction step of a claim about all runs. -/
theorem step {s t : State} (hs : P s) (h : step s = .next t) : P t := by
  have hinputs : ∀ is, P (s.withInputs is) := fun is => hP.of_registers_eq hs rfl
  obtain ⟨-, ⟨c, -, rfl⟩ | ⟨-, -, rfl⟩ | ⟨-, inp, is, i, left, -, -, h⟩ | ⟨-, inp, is, -, -, h⟩⟩ :=
    step_next h
  · exact hP.of_registers_eq hs rfl
  · exact hs
  · exact hP.effect (hinputs _) (exec_next h).2
  · exact hP.otherInput (hinputs _) h

end KeptByOps

/-- The laws of Laws/Invariant, one per operation. -/
theorem keptByOps_inv : KeptByOps State.Inv where
  registers_iff _ := ⟨fun h => { h with }, fun h => { h with }⟩
  resetOp h := h.resetOp
  tx h := h.tx
  consume h := h.consume
  arm h := h.arm
  takeByte h _ hc := h.takeByte hc
  shortRead h _ := h.reject (by decide) (by decide)

/-! ### The last window -/

/-- An open window has no story yet. -/
theorem lastWindow_of_open {s : State} (hp : s.ph = .rx) : s.LastWindow := by
  constructor <;> simp [hp]

/-- A short read leaves a window that is not full (R127). -/
theorem lastWindow_shortRead {s : State} (hc : s.cnt < 9#4) : (s.reject stShortRead).LastWindow := by
  refine ⟨?_, fun _ _ => hc, ?_, ?_, ?_⟩ <;>
    simp [stNone, stOk, stShortRead, stMalformed, stChecksumMismatch]

/-- An accepted frame is whole and decodes to the reading (R131). -/
theorem lastWindow_accept {s : State} {d : Word16} (hc : s.cnt = 9#4)
    (hd : fDecode s.buf.toList s.exp s.hdr = .ok d) : (s.accept d).LastWindow := by
  refine ⟨?_, ?_, fun _ _ => hc, fun _ _ => hd, ?_⟩ <;>
    simp [stNone, stOk, stShortRead, stMalformed, stChecksumMismatch]

/-- A rejected frame is whole and decodes to the recorded error (R132). -/
theorem lastWindow_reject {s : State} {e : BitVec 3} (hc : s.cnt = 9#4)
    (he : fDecode s.buf.toList s.exp s.hdr = .error e) (hk : e = stMalformed ∨ e = stChecksumMismatch) :
    (s.reject e).LastWindow := by
  refine ⟨?_, ?_, fun _ _ => hc, ?_, fun _ _ => he⟩ <;> rcases hk with rfl | rfl <;>
    simp [stNone, stOk, stShortRead, stMalformed, stChecksumMismatch]

/-- RESET starts the story again: no window, no byte (R231). -/
theorem lastWindow_resetOp (s : State) : s.resetOp.LastWindow := by
  refine ⟨fun _ _ => rfl, ?_, ?_, ?_, ?_⟩ <;>
    simp [stNone, stOk, stShortRead, stMalformed, stChecksumMismatch]

/-- A byte taken leaves the window open, or closes it with a whole frame in `BUF` (R125, R126). -/
theorem lastWindow_takeByte {s : State} (b : Byte) (hp : s.ph = .rx) (hc : s.cnt < 9#4) :
    (s.takeByte b).LastWindow := by
  rcases takeByte_cases b hc with ⟨-, h⟩ | ⟨h8, d, hd, h⟩ | ⟨h8, e, he, h, hk⟩ <;> rw [h]
  · exact lastWindow_of_open hp
  · exact lastWindow_accept (by simp [h8]) hd
  · exact lastWindow_reject (by simp [h8]) he hk

/-- With a window open there is nothing to keep; RESET and the three ways to close a window start a new story. -/
theorem keptByOps_lastWindow : KeptByOps State.LastWindow where
  registers_iff _ := ⟨fun h => { h with }, fun h => { h with }⟩
  resetOp _ := lastWindow_resetOp _
  tx h := { h with }
  consume h := { h with }
  arm _ := lastWindow_of_open rfl
  takeByte _ hp hc := lastWindow_takeByte _ hp hc
  shortRead _ hc := lastWindow_shortRead hc

/-! ### The reading and `AV` -/

open Sys2Proof.Claims (isRx)

/-- A device frame is a receive event. -/
theorem isRx_of_format {i : Instr} (h : i.format = .frame .deviceToHost) : isRx i := by
  cases i with
  | distanceReport => exact .inr (.inl ⟨_, _, _, _, _, _, rfl⟩)
  | distanceReportHdr => exact .inr (.inr ⟨_, _, _, rfl⟩)
  | _ => cases h

/-- The distance of a frame accepted in the buffer stands in bytes 5 and 6 (R121). -/
theorem eq_bytes_of_fDecode_ok {F : Vector Byte 9} {e d : Word16} {hdr : Bool}
    (h : fDecode F.toList e hdr = .ok d) : d = F[5] ++ F[6] := by
  obtain ⟨g0, g1, g2, g3, g4, g5, g6, g7, g8, hbytes, -, -, -, rfl⟩ := fDecode_ok _ _ _ _ h
  rw [toList_nine] at hbytes
  simp only [List.cons.injEq] at hbytes
  obtain ⟨-, -, -, -, -, h5, h6, -⟩ := hbytes
  rw [h5, h6]
  rfl

/-- The window has just closed on an accepted frame (R131): the buffer decodes to the reading, which is fresh. -/
structure State.JustAccepted (s : State) : Prop where
  closed : s.ph = .idle
  ok : s.st = stOk
  fresh : s.av = true
  dv_eq_dr : s.dv = s.dr
  decodes : fDecode s.buf.toList s.exp s.hdr = .ok s.dv

theorem justAccepted_accept {s : State} {d : Word16} (hd : fDecode s.buf.toList s.exp s.hdr = .ok d) :
    (s.accept d).JustAccepted :=
  ⟨rfl, rfl, rfl, rfl, hd⟩

theorem State.JustAccepted.withRet {s : State} {r : Option Report} (h : s.JustAccepted) :
    (s.withRet r).JustAccepted :=
  { h with }

/-- A run of received bytes leaves the reading and `AV` alone, or closes an open window on an accepted frame. -/
theorem deliver_reading (s : State) (n : Nat) :
    ((s.deliver n).dv = s.dv ∧ (s.deliver n).dr = s.dr ∧ (s.deliver n).av = s.av) ∨
    (s.ph = .rx ∧ (s.deliver n).JustAccepted) := by
  obtain ⟨-, ⟨-, -, hdv, hdr, hav⟩ | ⟨hp, u, d, h, hd⟩ | ⟨-, u, e, h, hdv, hdr, hav, -⟩⟩ := deliver_cases n s
  · exact .inl ⟨hdv, hdr, hav⟩
  · exact .inr ⟨hp, h ▸ justAccepted_accept hd⟩
  · rw [h]
    exact .inl ⟨hdv, hdr, hav⟩

/-- One byte taken is a run of one. -/
theorem takeByte_eq_deliver {s : State} {b : Byte} (hp : s.ph = .rx) (hc : s.cnt < 9#4)
    (hl : s.linkIn.head? = some b) : s.takeByte b = s.deliver 1 := by
  obtain ⟨rest, hl⟩ := List.head?_eq_some_iff.1 hl
  exact (deliver_step hl (windowOpen_of hp hc) 0).symm

/-- Everything an instruction can do to the reading and to `AV` (R28, R30). -/
theorem Effect.reading_cases {s t : State} {i : Instr} (h : Effect s i t) :
    (t.dv = s.dv ∧ t.dr = s.dr ∧ t.av = s.av) ∨
    (i = .getDistance ∧ t.dv = s.dv ∧ t.dr = s.dr ∧ t.av = false) ∨
    (i = .reset ∧ t.dv = Config.dvReset s.draws ∧ t.dr = Config.drReset s.draws ∧ t.av = false) ∨
    (isRx i ∧ s.ph = .rx ∧ t.JustAccepted) := by
  cases h with
  | overlap | sent | answered | armed | issued | timeout | disabled => exact .inl ⟨rfl, rfl, rfl⟩
  | consumed => exact .inr (.inl ⟨rfl, rfl, rfl, rfl⟩)
  | reset => exact .inr (.inr (.inl ⟨rfl, rfl, rfl, rfl⟩))
  | byte b hp hc hl =>
    rw [takeByte_eq_deliver hp hc hl]
    rcases deliver_reading s 1 with hsame | ⟨-, haccepted⟩
    · exact .inl hsame
    · exact .inr (.inr (.inr ⟨.inl ⟨b, rfl⟩, hp, haccepted.withRet⟩))
  | report hi =>
    rcases deliver_reading (s.arrive (encode i)) 9 with hsame | ⟨hp, haccepted⟩
    · exact .inl hsame
    · exact .inr (.inr (.inr ⟨isRx_of_format hi, hp, haccepted.withRet⟩))

/-- A line event is neither of the operations that clear `AV`. -/
theorem ne_of_lineEvent {i : Instr} (h : isRx i ∨ i = .rxTimeout) : i ≠ .getDistance ∧ i ≠ .reset := by
  rcases h with (⟨b, rfl⟩ | ⟨len, ah, al, d, p2, c, rfl⟩ | ⟨d, p2, c, rfl⟩) | rfl <;> exact ⟨nofun, nofun⟩

/-- AVAIL with no window open (R153). -/
theorem exec_avail_idle {s t : State} (hp : s.ph = .idle) (h : exec .avail s = .next t) :
    t = s.withRet (some (.done (.flag s.av))) := by
  obtain ⟨-, ⟨hp', -⟩ | ⟨-, h⟩⟩ := hostOp_next h
  · simp [hp] at hp'
  · exact finish_next.1 h

end Sys2Proof.Machine

/-! ### The statements of spec/10_state.md -/

namespace Sys2Proof.Proofs

open Sys2Proof.Machine

/-- Settles O53: each operation keeps the invariant (Laws/Invariant), so every step does. -/
theorem stepKeepsTheInvariant : Obligations.StepKeepsTheInvariant :=
  fun _ _ hs h => keptByOps_inv.step hs h

/-- Settles O54: a window closes by timeout, with a whole frame or by RESET, and each leaves its story. -/
theorem stepKeepsTheLastWindow : Obligations.StepKeepsTheLastWindow :=
  fun _ _ _ hs h => keptByOps_lastWindow.step hs h

/-- Settles O55, from the four things an instruction can do to the reading. -/
theorem readingChangesOnlyByAcceptance : Obligations.ReadingChangesOnlyByAcceptance := by
  intro i s t h
  rcases (exec_next h).2.reading_cases with
    ⟨hdv, hdr, -⟩ | ⟨-, hdv, hdr, -⟩ | ⟨hi, hdv, hdr, -⟩ | ⟨hi, hp, ha⟩
  · exact .inl ⟨hdv, hdr⟩
  · exact .inl ⟨hdv, hdr⟩
  · exact .inr (.inl ⟨hi, hdv, hdr⟩)
  · exact .inr (.inr ⟨hi, hp, ha.closed, ha.ok, ha.fresh, ha.dv_eq_dr, eq_bytes_of_fDecode_ok ha.decodes,
      ha.decodes⟩)

/-- Settles O56, from the four things an instruction can do to `AV`, and AVAIL's answer. -/
theorem availableFlagDiscipline : Obligations.AvailableFlagDiscipline := by
  intro i s t h
  have hcases := (exec_next h).2.reading_cases
  refine ⟨fun hs ht => ?set, fun hs ht => ?cleared, ?read, fun hi hst => ?kept⟩
  case set =>
    rcases hcases with ⟨-, -, hav⟩ | ⟨-, -, -, hav⟩ | ⟨-, -, -, hav⟩ | ⟨hi, hp, ha⟩
    · simp [hs, ht] at hav
    · simp [ht] at hav
    · simp [ht] at hav
    · exact ⟨hi, hp, ha.closed, ha.ok, ha.decodes⟩
  case cleared =>
    rcases hcases with ⟨-, -, hav⟩ | ⟨hi, -⟩ | ⟨hi, -⟩ | ⟨-, -, ha⟩
    · simp [hs, ht] at hav
    · exact .inl hi
    · exact .inr hi
    · exact absurd (ha.fresh.symm.trans ht) (by decide)
  case read =>
    rintro rfl hp
    exact exec_avail_idle hp h
  case kept =>
    rcases hcases with ⟨-, -, hav⟩ | ⟨hi', -⟩ | ⟨hi', -⟩ | ⟨-, -, ha⟩
    · exact hav
    · exact absurd hi' (ne_of_lineEvent hi).1
    · exact absurd hi' (ne_of_lineEvent hi).2
    · exact absurd ha.ok hst

/-- Settles O59, effect by effect: the received bytes may write all but `EXP`, and every other effect writes
what its update names. -/
theorem accessSummaryHolds : Obligations.AccessSummaryHolds := by
  intro i s t h
  cases (exec_next h).2 with
  | overlap | sent | answered | consumed | disabled => simp
  | reset | armed | issued | timeout => simp
  | byte b =>
    have hi : Claims.isRx (.rxByte b) := .inl ⟨b, rfl⟩
    simp [hi]
  | report hi => simp [isRx_of_format hi]

end Sys2Proof.Proofs
end

section
/-! The composition rules of spec/30_encoding.md section 7 (R73): a command is its guard and then TX_FRAME, and
READ_DISTANCE is TX_FRAME and then RX_ARM. -/

namespace Sys2Proof.Machine

/-! ### The guards as numbers (R173, R174, R176 to R179) -/

theorem addressGuard_iff_ne {a : Word16} : addressGuard a = true ↔ a ≠ 0xFFFF#16 := by
  simp only [addressGuard, decide_eq_true_eq]
  bv_omega

theorem baudGuard_iff {v : Byte} : baudGuard v = true ↔ v.toNat ≤ 9 := by
  simp [baudGuard, BitVec.le_def]

theorem intervalGuard_iff {v : Byte} : intervalGuard v = true ↔ 1 ≤ v.toNat ∧ v.toNat ≤ 100 := by
  simp [intervalGuard, BitVec.le_def]

theorem ledGuard_iff {v : Byte} : ledGuard v = true ↔ v.toNat ≤ 3 := by
  simp [ledGuard, BitVec.le_def]

theorem relayGuard_iff {v : Byte} : relayGuard v = true ↔ v.toNat ≤ 1 := by
  simp [relayGuard, BitVec.le_def]

theorem commGuard_iff {v : Byte} : commGuard v = true ↔ v.toNat ≤ 1 := by
  simp [commGuard, BitVec.le_def]

/-! ### Operations from an idle live state -/

section Idle

variable {s : State} (hf : s.flt = none) (hp : s.ph = .idle)
include hf hp

/-- TX_FRAME sends its frame and returns (R111). -/
theorem exec_txFrame_idle (cmd : Word16) (p0 p1 p2 : Byte) :
    exec (.txFrame cmd p0 p1 p2) s = .next ((s.tx (enc cmd p0 p1 p2)).withRet (some (.done .unit))) :=
  hostOp_idle hf hp

/-- RX_ARM opens its window and waits (R124). -/
theorem exec_rxArm_idle (e : Word16) : exec (.rxArm e) s = .next ((s.arm e).awaitClose .rxArm) :=
  hostOp_idle hf hp

/-- READ_DISTANCE's issue step (R152). -/
theorem exec_readDistance_idle : exec .readDistance s = .next s.issueRead :=
  hostOp_idle hf hp

/-- A command sends its frame if its guard passes, and nothing otherwise (R170). -/
theorem sendCommand_idle (g : Bool) (frame : List Byte) :
    sendCommand g frame s = if g then finish .ok (s.tx frame) else finish .paramOutOfRange s :=
  hostOp_idle hf hp

/-- A command whose guard passes sends what TX_FRAME sends, and returns OK (R73). -/
theorem sendCommand_eq_txFrame {g : Bool} (hg : g = true) (cmd : Word16) (p0 p1 p2 : Byte) :
    ∃ t, exec (.txFrame cmd p0 p1 p2) s = .next t ∧
      sendCommand g (enc cmd p0 p1 p2) s = .next (t.withRet (some (.done .ok))) := by
  refine ⟨_, exec_txFrame_idle hf hp cmd p0 p1 p2, ?_⟩
  rw [sendCommand_idle hf hp, if_pos hg]
  rfl

end Idle

theorem execAll_cons {i : Instr} {is : List Instr} {s t : State} (h : exec i s = .next t) :
    execAll (i :: is) s = execAll is t := by
  simp [execAll, h]

/-- READ_DISTANCE's frame and window are those of the two operations it is made of; only the awaited operation
differs (R73, R152). -/
theorem issueRead_eq (s : State) :
    s.issueRead =
      { (((s.tx (encP0 s.cmdTable.readDistance)).withRet (some (.done .unit))).arm
          s.cmdTable.readDistance).awaitClose .rxArm with waiting := some .readDistance } :=
  rfl

end Sys2Proof.Machine

/-! ### The statements of spec/30_encoding.md section 7 -/

namespace Sys2Proof.Proofs

open Sys2Proof.Machine

/-- Settles O43: each command is `sendCommand` of its guard and of a frame ENC builds, so TX_FRAME of that frame
is what it does once the guard passes. -/
theorem commandIsGuardThenTxFrame : Obligations.CommandIsGuardThenTxFrame := by
  intro s i id p0 p1 hf hp hcmd
  rcases hcmd with ⟨hard, rfl, rfl, rfl, rfl⟩ | ⟨a, rfl, hg, rfl, rfl, rfl⟩ | ⟨rfl, hg, rfl, rfl⟩ |
    ⟨auto, rfl, rfl, rfl, rfl⟩ | ⟨rfl, hlo, hhi, rfl, rfl⟩ | ⟨rfl, hg, rfl, rfl⟩ | ⟨rfl, hg, rfl, rfl⟩ |
    ⟨rfl, hg, rfl, rfl⟩
  · exact sendCommand_eq_txFrame hf hp rfl _ (restoreByte hard) 0x00#8 0x00#8
  · exact sendCommand_eq_txFrame hf hp (addressGuard_iff_ne.2 hg) _ (hiByte a) (loByte a) 0x00#8
  · exact sendCommand_eq_txFrame hf hp (baudGuard_iff.2 hg) _ p0 0x00#8 0x00#8
  · exact sendCommand_eq_txFrame hf hp rfl _ (boolByte auto) 0x00#8 0x00#8
  · exact sendCommand_eq_txFrame hf hp (intervalGuard_iff.2 ⟨hlo, hhi⟩) _ p0 0x00#8 0x00#8
  · exact sendCommand_eq_txFrame hf hp (ledGuard_iff.2 hg) _ p0 0x00#8 0x00#8
  · exact sendCommand_eq_txFrame hf hp (relayGuard_iff.2 hg) _ p0 0x00#8 0x00#8
  · exact sendCommand_eq_txFrame hf hp (commGuard_iff.2 hg) _ p0 0x00#8 0x00#8

/-- Settles O27: TX_FRAME leaves the codec live and idle, so RX_ARM runs, and the issue step of READ_DISTANCE is
their composition. -/
theorem readDistanceIsTxFrameThenRxArm : Obligations.ReadDistanceIsTxFrameThenRxArm := by
  intro s htab hf hp
  have hid : s.cmdTable.readDistance = 0x6233#16 := congrArg CmdTable.readDistance htab
  have htx := exec_txFrame_idle hf hp 0x6233#16 0x00#8 0x00#8 0x00#8
  have harm := exec_rxArm_idle (s := (s.tx (encP0 0x6233#16)).withRet (some (.done .unit))) hf hp 0x6233#16
  refine ⟨_, (execAll_cons htx).trans (execAll_cons harm), ?_⟩
  rw [exec_readDistance_idle hf hp, issueRead_eq, hid]

end Sys2Proof.Proofs
end

section
/-! What the checksum detects: spec/41_checksum.md. Everything rests on the fold's laws of Laws/Word: it takes
concatenation to XOR, and its bit `k` is the parity of bit column `k`. -/

namespace Sys2Proof.Machine

/-! ### Order, repetition and one changed byte (R100) -/

theorem chk_perm {bs cs : List Byte} (h : bs.Perm cs) : chk bs = chk cs := by
  induction h with
  | nil => rfl
  | cons b _ ih => rw [chk_head, chk_head, ih]
  | swap b c bs => simp only [chk_head]; ac_rfl
  | trans _ _ ih₁ ih₂ => exact ih₁.trans ih₂

/-- A byte at the head of the sequence twice cancels itself. -/
theorem chk_head_twice (b : Byte) (bs : List Byte) : chk (b :: b :: bs) = chk bs := by
  rw [chk_head, chk_head, ← BitVec.xor_assoc, BitVec.xor_self, BitVec.zero_xor]

/-- Replacing one byte changes the fold by the XOR of the old byte and the new. -/
theorem chk_set (bs : List Byte) (k : Nat) (hk : k < bs.length) (b : Byte) :
    chk (bs.set k b) = chk bs ^^^ (bs[k] ^^^ b) := by
  induction bs generalizing k with
  | nil => simp at hk
  | cons c bs ih =>
    cases k with
    | zero =>
      calc chk (b :: bs) = chk (c :: c :: b :: bs) := (chk_head_twice c _).symm
        _ = chk (c :: bs) ^^^ (c ^^^ b) := by simp only [chk_head]; ac_rfl
    | succ k =>
      rw [List.set_cons_succ, chk_head, ih k (by simpa using hk), chk_head, List.getElem_cons_succ,
        BitVec.xor_assoc]

/-! ### The checksum comparison (R102, R104) -/

/-- Byte 8 is the checksum of bytes 0..7 exactly when the nine bytes fold to zero (R102). -/
theorem byte8_eq_chk_iff (F : Vector Byte 9) : F[8] = chk (F.toList.take 8) ↔ chk F.toList = 0x00#8 := by
  have hsplit : F.toList = F.toList.take 8 ++ [F[8]] := by rw [toList_nine]; rfl
  have hfold : chk F.toList = chk (F.toList.take 8) ^^^ F[8] := by
    conv_lhs => rw [hsplit, chk_join]
    simp
  rw [hfold, BitVec.xor_eq_zero_iff, eq_comm]

/-- A sequence folds to zero exactly when every bit column holds an even number of ones. -/
theorem chk_eq_zero_iff_even_columns (bs : List Byte) :
    chk bs = 0x00#8 ↔ ∀ k, k < 8 → Even (bs.countP (·.getLsbD k)) := by
  have hbit (k : Nat) : (chk bs).getLsbD k = (0x00#8).getLsbD k ↔ Even (bs.countP (·.getLsbD k)) := by
    simp [chk_column, Nat.even_iff]
  simp only [← hbit]
  exact ⟨fun h k _ => by rw [h], fun h => BitVec.eq_of_getLsbD_eq h⟩

/-- Against a frame that folds to zero, the error pattern has the fold of the received frame. -/
theorem chk_error_of_valid {F G : Vector Byte 9} (hF : chk F.toList = 0x00#8) :
    chk (List.zipWith (· ^^^ ·) F.toList G.toList) = chk G.toList := by
  rw [chk_zipWith _ _ (by simp), hF, BitVec.zero_xor]

/-- A frame that folds to zero does so no longer once one byte is another. -/
theorem chk_set_ne_zero_of_valid {F : Vector Byte 9} (hF : chk F.toList = 0x00#8) (k : Fin 9) {b : Byte}
    (hb : b ≠ F[k]) : chk (F.set k b).toList ≠ 0x00#8 := by
  have hset : chk (F.set k b).toList = F[k] ^^^ b := by
    rw [Vector.toList_set, chk_set _ _ (by simp), hF, BitVec.zero_xor]
    simp
  rw [hset, Ne, BitVec.xor_eq_zero_iff]
  exact hb.symm

end Sys2Proof.Machine

/-! ### The statements of spec/41_checksum.md -/

namespace Sys2Proof.Proofs

open Sys2Proof.Machine

/-- Settles O7: a byte that occurs twice cancels because the order is free, so both can be moved to the head. -/
theorem chkIsTheXorFold : Obligations.ChkIsTheXorFold := by
  refine ⟨chk_empty, fun bs b => ?next, fun _ _ => chk_perm, fun bs cs ds b => ?twice, by decide⟩
  case next => simp [chk_join]
  case twice =>
    have htwo : (bs ++ b :: (cs ++ b :: ds)).Perm (b :: b :: (bs ++ cs ++ ds)) := by
      refine List.perm_middle.trans (.cons b ?_)
      rw [← List.append_assoc]
      exact List.perm_middle
    rw [chk_perm htwo, chk_head_twice]

/-- Settles O8: passing the comparison is folding to zero, and the fold of the error pattern is that of the
received frame. -/
theorem checksumPassesEvenErrors : Obligations.ChecksumPassesEvenErrors := by
  refine ⟨byte8_eq_chk_iff, fun F G hvalid => ?_⟩
  have hF : chk F.toList = 0x00#8 := (byte8_eq_chk_iff F).1 hvalid
  refine ⟨?columns, ?oneByte⟩
  case columns => rw [byte8_eq_chk_iff, ← chk_error_of_valid hF, chk_eq_zero_iff_even_columns]
  case oneByte =>
    rintro k b rfl hb hpass
    exact chk_set_ne_zero_of_valid hF k hb ((byte8_eq_chk_iff _).1 hpass)

end Sys2Proof.Proofs
end

section
/-! The frames the encoder builds, sent and received: spec/42_frame_build.md. What ENC's nine bytes are and what
their checksum is; that TXLOG grows by such frames alone; and that F_DECODE undoes ENC, so that a window which
takes a built frame accepts it. -/

namespace Sys2Proof.Machine

/-! ### The frame as nine bytes (R110, R112) -/

/-- The frame ENC builds, as the nine bytes it is. -/
def encVector (cmd : Word16) (p0 p1 p2 : Byte) : Vector Byte 9 :=
  ⟨(enc cmd p0 p1 p2).toArray, rfl⟩

@[simp] theorem toList_encVector (cmd : Word16) (p0 p1 p2 : Byte) :
    (encVector cmd p0 p1 p2).toList = enc cmd p0 p1 p2 := rfl

/-- A byte that stands twice in a row cancels itself wherever it stands (R103). -/
theorem chk_adjacent_twice (bs cs : List Byte) (b : Byte) : chk (bs ++ b :: b :: cs) = chk (bs ++ cs) := by
  rw [chk_join, chk_head_twice, chk_join]

/-- The checksum of a built frame: the two address bytes cancel (R103). -/
theorem chk_frameBody (cmd : Word16) (p0 p1 p2 : Byte) :
    chk (frameBody cmd p0 p1 p2) =
      hiByte cmd ^^^ loByte cmd ^^^ Config.lenTag ^^^ p0 ^^^ p1 ^^^ p2 :=
  calc chk (frameBody cmd p0 p1 p2)
      = chk ([hiByte cmd, loByte cmd, Config.lenTag] ++ [p0, p1, p2]) :=
        chk_adjacent_twice [hiByte cmd, loByte cmd, Config.lenTag] [p0, p1, p2] Config.addrHi
    _ = hiByte cmd ^^^ loByte cmd ^^^ Config.lenTag ^^^ p0 ^^^ p1 ^^^ p2 := by
        simp [BitVec.xor_assoc]

/-! ### What goes out (R42, R46) -/

/-- Everything an instruction can do to `TXLOG`: nothing, or append one frame that ENC built, and then it is a
host operation or a command-frame row. -/
theorem Effect.txlog_cases {s t : State} {i : Instr} (h : Effect s i t) :
    t.txlog = s.txlog ∨
    ((i.isHostOp = true ∨ i.isSentFrame = true) ∧
      ∃ cmd p0 p1 p2, t.txlog = s.txlog ++ enc cmd p0 p1 p2) := by
  cases h with
  | sent cmd p0 p1 p2 _ _ hi => exact .inr ⟨hi, cmd, p0, p1, p2, rfl⟩
  | issued => exact .inr ⟨.inl rfl, _, _, _, _, rfl⟩
  | byte | report => exact .inl (by simp)
  | overlap | reset | answered | consumed | armed | timeout | disabled => exact .inl rfl

/-! ### Host operations -/

open Sys2Proof.Claims (Answers Guarded)

/-- What stands behind the prelude of a host operation does not run in a faulted codec or an open window
(R211, R220). -/
theorem guarded_of_hostOp {i : Instr} {s : State} {k : Result} (h : exec i s = hostOp s k) : Guarded i s :=
  ⟨fun _ hf => h.trans (hostOp_faulted hf), fun hf hp => h.trans (hostOp_open hf hp)⟩

/-- A host operation that ends in `f s` when it runs. -/
theorem answers_of_hostOp {i : Instr} {f : State → State} (h : ∀ s, exec i s = hostOp s (.next (f s))) :
    Answers i f := fun s =>
  ⟨guarded_of_hostOp (h s), fun hf hp => (h s).trans (hostOp_idle hf hp)⟩

/-! ### F_DECODE undoes ENC (R113, R121) -/

/-- A frame built for the id a window expects passes every check, and gives back the distance put into it. -/
theorem fDecode_enc (e d : Word16) (x : Byte) (hdr : Bool) :
    fDecode (enc e (hiByte d) (loByte d) x) e hdr = .ok d := by
  have hheader : headerOk hdr Config.lenTag Config.addrHi Config.addrLo = true := by cases hdr <;> rfl
  calc fDecode (enc e (hiByte d) (loByte d) x) e hdr
      = .ok (be16 (hiByte d) (loByte d)) := by
        simp [enc, frameBody, fDecode_nine, hheader]
    _ = .ok d := by rw [be16_hiByte_loByte]

/-! ### A window that takes nine bytes -/

theorem closeWindow_of_ok {s : State} {d : Word16} (h : fDecode s.buf.toList s.exp s.hdr = .ok d) :
    s.closeWindow = s.accept d := by
  simp [State.closeWindow, h]

/-- RX_BYTE for the ninth byte: it is stored, and the window is completed (R125, R126). -/
theorem exec_rxByte_ninth {s : State} {b : Byte} {rest : List Byte} (hf : s.flt = none) (hp : s.ph = .rx)
    (hc : s.cnt = 8#4) (hl : s.linkIn = b :: rest) :
    exec (.rxByte b) s = .next ((s.withRet (some (.done .unit))).storeByte b).closeWindow := by
  rw [exec_rxByte_open hf hp (by simp [hc]) hl, ← takeByte_withRet,
    takeByte_last (s := s.withRet (some (.done .unit))) b hc]

/-- Nine bytes are the eight that the checksum covers and the checksum byte. -/
theorem toList_eq_take_eight (F : Vector Byte 9) : F.toList = F.toList.take 8 ++ [F[8]] := by
  rw [toList_nine]; rfl

/-- The ninth byte completes the buffer, given the eight before it. -/
theorem setIfInBounds_eight {B F : Vector Byte 9} (h : B.toList.take 8 = F.toList.take 8) :
    B.setIfInBounds 8 F[8] = F := by
  apply Vector.toList_inj.1
  calc (B.setIfInBounds 8 F[8]).toList
      = (B.toList.set 8 F[8]).take 9 := by rw [toList_setIfInBounds, List.take_of_length_le (by simp)]
    _ = F.toList.take 8 ++ [F[8]] := by rw [take_succ_set _ _ _ (by simp), h]
    _ = F.toList := (toList_eq_take_eight F).symm

open Sys2Proof.Claims (filled)

/-- `s` in a window that RX_ARM opened for `e`, with all nine bytes taken and the window not yet completed. -/
def State.windowFull (s : State) (e : Word16) (F : Vector Byte 9) (rest : List Byte) : State :=
  filled F { s with ph := .rx, exp := e, linkIn := rest, waiting := some .rxArm, ret := some (.done .unit) }

/-- A window that is armed and takes nine bytes is completed on exactly these (R124 to R126). -/
theorem execAll_rxArm_nine {s : State} (e : Word16) (F : Vector Byte 9) {rest : List Byte}
    (hf : s.flt = none) (hp : s.ph = .idle) (hl : s.linkIn = F.toList ++ rest) :
    execAll (.rxArm e :: F.toList.map .rxByte) s = .next (s.windowFull e F rest).closeWindow := by
  have hlink : ((s.arm e).awaitClose .rxArm).linkIn = F.toList.take 8 ++ (F[8] :: rest) := by
    rw [List.append_cons, ← toList_eq_take_eight]; exact hl
  obtain ⟨t, hrun, hcnt, hacc, hbuf, -, ht⟩ :=
    run_early (F.toList.take 8) ((s.arm e).awaitClose .rxArm) (F[8] :: rest) hf rfl (by simp) hlink
  have hcnt : t.cnt = 8#4 := BitVec.eq_of_toNat_eq (by simpa using hcnt)
  have hacc : t.acc = chk (F.toList.take 8) := by simpa using hacc
  have hbuf : t.buf.setIfInBounds 8 F[8] = F := setIfInBounds_eight (by simpa [hcnt] using hbuf)
  have hfull : (t.withRet (some (.done .unit))).storeByte F[8] = s.windowFull e F rest := by
    rw [ht]
    simp [State.storeByte, State.withRet, State.windowFull, filled, hcnt, hacc, hbuf]
  have hlast : exec (.rxByte F[8]) t = .next (s.windowFull e F rest).closeWindow := by
    rw [exec_rxByte_ninth (rest := rest) (by rw [ht]; exact hf) (by rw [ht]; rfl) hcnt (by rw [ht]), hfull]
  calc execAll (.rxArm e :: F.toList.map .rxByte) s
      = execAll ((F.toList.take 8).map .rxByte ++ [.rxByte F[8]]) ((s.arm e).awaitClose .rxArm) := by
        rw [execAll_cons (exec_rxArm_idle hf hp e)]
        conv_lhs => rw [toList_eq_take_eight F, List.map_append]
        rfl
    _ = execAll [.rxByte F[8]] t := execAll_join _ _ _ _ hrun
    _ = .next (s.windowFull e F rest).closeWindow := execAll_cons hlast

end Sys2Proof.Machine

/-! ### The statements of spec/42_frame_build.md -/

namespace Sys2Proof.Proofs

open Sys2Proof.Machine

/-- Settles O9: the nine bytes are what ENC's definition writes. -/
theorem encBuildsTheFrame : Obligations.EncBuildsTheFrame :=
  ⟨enc_bytes, by decide⟩

/-- Settles O10: the last byte is the checksum of the body before it, in which the address bytes cancel. -/
theorem builtFramesPassTheirChecksum : Obligations.BuiltFramesPassTheirChecksum := fun cmd p0 p1 p2 =>
  ⟨enc_length cmd p0 p1 p2, rfl, congrArg some (chk_frameBody cmd p0 p1 p2)⟩

/-- Settles O15: TX_FRAME is the prelude of a host operation, and behind it one frame appended to TXLOG. -/
theorem txFrameSendsAnyFrame : Obligations.TxFrameSendsAnyFrame := fun _ _ _ _ =>
  answers_of_hostOp fun _ => rfl

/-- Settles O57: what goes out is a frame that ENC built, and ENC writes the constants and the checksum. -/
theorem onlyWholeFramesAreSent : Obligations.OnlyWholeFramesAreSent := by
  intro i s t h
  rcases (exec_next h).2.txlog_cases with hsame | ⟨hi, cmd, p0, p1, p2, hsent⟩
  · exact .inl hsame
  · refine .inr ⟨encVector cmd p0 p1 p2, ?_, rfl, rfl, rfl, rfl, hi⟩
    rw [hsent, toList_encVector]

/-- Settles O23: the window is completed on the nine bytes ENC built, and F_DECODE gives back their distance. -/
theorem distanceRoundTrip : Obligations.DistanceRoundTrip := by
  intro s d x rest hf hp hl
  have hrun := execAll_rxArm_nine 0x6233#16 (encVector 0x6233#16 (hiByte d) (loByte d) x) hf hp hl
  have hclose := closeWindow_of_ok
    (s := s.windowFull 0x6233#16 (encVector 0x6233#16 (hiByte d) (loByte d) x) rest)
    (fDecode_enc 0x6233#16 d x s.hdr)
  exact ⟨_, hrun.trans (congrArg _ hclose), rfl, rfl, rfl, rfl, rfl, rfl⟩

end Sys2Proof.Proofs
end

section
/-! The receiver: spec/43_receive.md. F_DECODE's checks as a chain over the nine bytes, and its acceptance condition
read off that chain; and a closed window is the verdict of F_DECODE applied, whether the bytes came one at a time or
at once, or the timeout came first. -/

namespace Sys2Proof.Machine

/-! ### F_DECODE on nine bytes (R121, R123) -/

/-- The header check: off, or the constants of a frame the FC sends. -/
theorem headerOk_iff {hdr : Bool} {g2 g3 g4 : Byte} :
    headerOk hdr g2 g3 g4 = true ↔ hdr = false ∨ (g2 = 0x09#8 ∧ g3 = 0xFF#8 ∧ g4 = 0xFF#8) := by
  cases hdr <;> simp [headerOk, Config.lenTag, Config.addrHi, Config.addrLo, and_assoc]

section NineBytes

variable {F : Vector Byte 9} {e : Word16} {hdr : Bool}

/-- The checks of R121 as a chain over the bytes of a full buffer. -/
theorem fDecode_toList :
    fDecode F.toList e hdr =
      if F[0] ≠ hiByte e then .error stMalformed
      else if F[1] ≠ loByte e then .error stMalformed
      else if headerOk hdr F[2] F[3] F[4] = false then .error stMalformed
      else if F[8] ≠ chk (F.toList.take 8) then .error stChecksumMismatch
      else .ok (be16 F[5] F[6]) := by
  rw [toList_nine]
  exact fDecode_nine ..

theorem fDecode_of_wrong_hiByte (h0 : F[0] ≠ hiByte e) : fDecode F.toList e hdr = .error stMalformed := by
  rw [fDecode_toList, if_pos h0]

theorem fDecode_of_wrong_loByte (h0 : F[0] = hiByte e) (h1 : F[1] ≠ loByte e) :
    fDecode F.toList e hdr = .error stMalformed := by
  rw [fDecode_toList, if_neg (not_not.2 h0), if_pos h1]

/-- Once the id is right, the header decides next. -/
theorem fDecode_of_id (h0 : F[0] = hiByte e) (h1 : F[1] = loByte e) :
    fDecode F.toList e hdr =
      if headerOk hdr F[2] F[3] F[4] = false then .error stMalformed
      else if F[8] ≠ chk (F.toList.take 8) then .error stChecksumMismatch
      else .ok (be16 F[5] F[6]) := by
  rw [fDecode_toList, if_neg (not_not.2 h0), if_neg (not_not.2 h1)]

theorem fDecode_of_wrong_header (h0 : F[0] = hiByte e) (h1 : F[1] = loByte e)
    (hh : headerOk hdr F[2] F[3] F[4] = false) : fDecode F.toList e hdr = .error stMalformed := by
  rw [fDecode_of_id h0 h1, if_pos hh]

theorem fDecode_of_wrong_checksum (h0 : F[0] = hiByte e) (h1 : F[1] = loByte e)
    (hh : headerOk hdr F[2] F[3] F[4] = true) (hc : F[8] ≠ chk (F.toList.take 8)) :
    fDecode F.toList e hdr = .error stChecksumMismatch := by
  rw [fDecode_of_id h0 h1, if_neg (by simp [hh]), if_pos hc]

theorem fDecode_of_valid (h0 : F[0] = hiByte e) (h1 : F[1] = loByte e)
    (hh : headerOk hdr F[2] F[3] F[4] = true) (hc : F[8] = chk (F.toList.take 8)) :
    fDecode F.toList e hdr = .ok (be16 F[5] F[6]) := by
  rw [fDecode_of_id h0 h1, if_neg (by simp [hh]), if_neg (not_not.2 hc)]

/-- The acceptance condition of R123, with the distance it gives. -/
theorem fDecode_toList_ok_iff {d : Word16} :
    fDecode F.toList e hdr = .ok d ↔
      be16 F[0] F[1] = e ∧ headerOk hdr F[2] F[3] F[4] = true ∧ F[8] = chk (F.toList.take 8) ∧
        d = be16 F[5] F[6] := by
  constructor
  · intro h
    rw [fDecode_toList] at h
    split_ifs at h with h0 h1 hh hc
    rw [not_not] at h0 h1 hc
    exact ⟨(be16_eq_iff ..).2 ⟨h0, h1⟩, by simpa using hh, hc, (Except.ok.inj h).symm⟩
  · rintro ⟨hid, hh, hc, rfl⟩
    obtain ⟨h0, h1⟩ := (be16_eq_iff ..).1 hid
    exact fDecode_of_valid h0 h1 hh hc

end NineBytes

/-- What F_DECODE accepts is a full buffer. -/
theorem exists_vector_of_fDecode_ok {G : List Byte} {e d : Word16} {hdr : Bool}
    (h : fDecode G e hdr = .ok d) : ∃ F : Vector Byte 9, G = F.toList := by
  by_cases hn : G.length = 9
  · exact ⟨⟨G.toArray, hn⟩, rfl⟩
  · rw [fDecode_of_length_ne G e hdr hn] at h
    cases h

/-! ### Closing a window (R126, R131, R132) -/

open Sys2Proof.Claims (filled judged)

/-- Completion is the verdict of F_DECODE on the buffer, applied. -/
theorem closeWindow_eq_judged (s : State) :
    s.closeWindow = judged (fDecode s.buf.toList s.exp s.hdr) s := by
  unfold State.closeWindow
  cases fDecode s.buf.toList s.exp s.hdr <;> rfl

/-- A verdict closes the window, so that it stood open does not show afterwards. -/
theorem judged_windowFull (v : Except (BitVec 3) Word16) (s : State) (e : Word16) (F : Vector Byte 9)
    (rest : List Byte) :
    judged v (s.windowFull e F rest) =
      judged v (filled F { s with
        exp := e, linkIn := rest, waiting := some .rxArm, ret := some (.done .unit) }) := by
  cases v <;> rfl

/-- The ninth byte goes to `BUF[8]` and is not folded into `ACC`. -/
theorem storeByte_ninth {s : State} {b : Byte} {rest : List Byte} (hc : s.cnt = 8#4)
    (hl : s.linkIn = b :: rest) :
    s.storeByte b = { s with linkIn := rest, buf := s.buf.set 8 b, cnt := 9#4 } := by
  simp [State.storeByte, hc, hl, setIfInBounds_of_lt]

/-- RX_BYTE for the ninth byte: stored, and the verdict of F_DECODE on the full buffer applied. -/
theorem exec_rxByte_ninth_judged {s : State} {b : Byte} {rest : List Byte} (hf : s.flt = none)
    (hp : s.ph = .rx) (hc : s.cnt = 8#4) (hl : s.linkIn = b :: rest) :
    exec (.rxByte b) s = .next (judged (fDecode (s.buf.set 8 b).toList s.exp s.hdr)
      { s with linkIn := rest, buf := s.buf.set 8 b, cnt := 9#4, ret := some (.done .unit) }) := by
  rw [exec_rxByte_ninth hf hp hc hl, storeByte_ninth (s := s.withRet (some (.done .unit))) hc hl, closeWindow_eq_judged]
  rfl

/-- RX_TIMEOUT in an open window is a short read, whatever `CNT` is (R127). -/
theorem exec_rxTimeout_open {s : State} (hf : s.flt = none) (hp : s.ph = .rx) (hc : s.cnt < 9#4) :
    exec .rxTimeout s = .next ((s.reject stShortRead).withRet (some (.done .unit))) :=
  (whenLive_live hf).trans (if_pos (windowOpen_of hp hc))

end Sys2Proof.Machine

/-! ### The statements of spec/43_receive.md, sections 2 to 4 -/

namespace Sys2Proof.Proofs

open Sys2Proof.Machine

/-- Settles O11: one lemma per check, each for the buffers that pass the checks before it. -/
theorem decodeChecksInOrder : Obligations.DecodeChecksInOrder := by
  refine ⟨fun G e hdr hn => fDecode_of_length_ne G e hdr (Nat.ne_of_lt hn),
    fun G e hdr => ⟨fDecode_of_wrong_hiByte, fDecode_of_wrong_loByte, fun h0 h1 hhdr hwrong => ?header,
      fun h0 h1 hh => fDecode_of_wrong_checksum h0 h1 (headerOk_iff.2 hh),
      fun h0 h1 hh => fDecode_of_valid h0 h1 (headerOk_iff.2 hh)⟩, by decide⟩
  case header =>
    refine fDecode_of_wrong_header h0 h1 (Bool.eq_false_iff.2 fun hok => ?_)
    rcases headerOk_iff.1 hok with hoff | ⟨h2, h3, h4⟩
    · exact Bool.false_ne_true (hoff.symm.trans hhdr)
    · rcases hwrong with hne | hne | hne <;> contradiction

/-- Settles O12: what is accepted is a full buffer, and on a full buffer acceptance is R123's condition. -/
theorem frameAcceptedIff : Obligations.FrameAcceptedIff := by
  intro G e hdr d
  constructor
  · intro h
    obtain ⟨F, rfl⟩ := exists_vector_of_fDecode_ok h
    obtain ⟨hid, hh, hc, hd⟩ := fDecode_toList_ok_iff.1 h
    exact ⟨F, rfl, hid, headerOk_iff.1 hh, hc, hd⟩
  · rintro ⟨F, rfl, hid, hh, hc, hd⟩
    exact fDecode_toList_ok_iff.2 ⟨hid, headerOk_iff.2 hh, hc, hd⟩

/-- Settles O18: the window closes on the verdict of F_DECODE, and an accepted distance is bytes 5 and 6, which the
ninth byte leaves as they were. -/
theorem ninthByteClosesTheWindow : Obligations.NinthByteClosesTheWindow := by
  intro s b rest hf hp hc hl
  have hrun := exec_rxByte_ninth_judged hf hp hc hl
  refine ⟨fun d hd => ⟨?distance, ?accepted⟩, fun e he => ?rejected⟩
  case distance =>
    obtain ⟨-, -, -, hdist⟩ := fDecode_toList_ok_iff.1 hd
    simpa [be16] using hdist
  case accepted => rw [hrun, hd]; rfl
  case rejected => rw [hrun, he]; rfl

/-- Settles O21: a window that takes nine bytes is completed on exactly these, and completion is F_DECODE's verdict. -/
theorem serialReceiverComputesDecode : Obligations.SerialReceiverComputesDecode := by
  intro s e F rest hf hp hl
  rw [execAll_rxArm_nine e F hf hp hl, closeWindow_eq_judged, judged_windowFull]
  rfl

/-- Settles O22: fewer than nine bytes leave the window open, so the timeout finds it so, and writes the code that
F_DECODE gives any such sequence. -/
theorem shortWindowRecordsShortRead : Obligations.ShortWindowRecordsShortRead := by
  intro s e g rest hn hf hp hl
  obtain ⟨t, hrun, hcnt, hacc, htake, hdrop, ht⟩ :=
    run_early g ((s.arm e).awaitClose .rxArm) rest hf rfl (by simp; omega) hl
  have hcnt : t.cnt.toNat = g.length := by simpa using hcnt
  have hacc : t.acc = chk g := by simpa using hacc
  have htimeout : exec .rxTimeout t = .next ((t.reject stShortRead).withRet (some (.done .unit))) :=
    exec_rxTimeout_open (by rw [ht]; exact hf) (by rw [ht]; rfl) (by rw [BitVec.lt_def, hcnt]; exact hn)
  refine ⟨(t.reject stShortRead).withRet (some (.done .unit)), ?run, ?code, hcnt, ?fold, ?taken, ?kept, ?frame⟩
  case run =>
    calc execAll (.rxArm e :: (g.map .rxByte ++ [.rxTimeout])) s
        = execAll (g.map .rxByte ++ [.rxTimeout]) ((s.arm e).awaitClose .rxArm) :=
          execAll_cons (exec_rxArm_idle hf hp e)
      _ = execAll [.rxTimeout] t := execAll_join _ _ _ _ hrun
      _ = .next ((t.reject stShortRead).withRet (some (.done .unit))) := execAll_cons htimeout
  case code => exact fDecode_of_length_ne g e s.hdr (Nat.ne_of_lt hn)
  case fold => rw [List.take_of_length_le (Nat.le_of_lt_succ hn)]; exact hacc
  case taken => simpa [hcnt] using htake
  case kept => simpa [hcnt] using hdrop
  case frame => rw [ht]; rfl

end Sys2Proof.Proofs
end

section
/-! The reading as the host sees it: spec/44_result.md. Each host read is the prelude of a host operation and
behind it one answer, so what it does after RESET, after an accepted frame or after another read follows from the
state it then finds; and READ_DISTANCE returns in a step of its own. -/

namespace Sys2Proof.Machine

open Sys2Proof.Claims (Answers returned)

/-! ### The host reads (R153 to R156) -/

theorem answers_avail : Answers .avail fun s => returned (.flag s.av) s :=
  answers_of_hostOp fun _ => rfl

theorem answers_getDistance :
    Answers .getDistance fun s => returned (.distance s.dv) { s with av := false } :=
  answers_of_hostOp fun _ => rfl

theorem answers_getLast : Answers .getLast fun s => returned (.distance s.dr) s :=
  answers_of_hostOp fun _ => rfl

theorem answers_getStatus : Answers .getStatus fun s => returned (.status s.st) s :=
  answers_of_hostOp fun _ => rfl

/-- A host operation from an idle live state ends in its answer. -/
theorem exec_of_answers {i : Instr} {k : State → State} (h : Answers i k) {s : State} (hf : s.flt = none)
    (hp : s.ph = .idle) : exec i s = .next (k s) :=
  (h s).2 hf hp

/-- What holds of the idle live state that RESET leaves holds of any state after RESET (R231). -/
theorem after_reset {P : State → State → Prop}
    (hP : ∀ s, s.flt = none → P s (s.resetOp.withRet (some (.done .unit)))) (s t : State)
    (h : exec .reset s = .next t) : P s t := by
  obtain ⟨hf, hfin⟩ := whenLive_next h
  exact finish_next.1 hfin ▸ hP s hf

/-! ### Runs of host operations -/

/-- A run of instructions is all but the last, then the last. -/
theorem execAll_concat {is : List Instr} {i : Instr} {s t u : State} (h : execAll is s = .next t)
    (hi : exec i t = .next u) : execAll (is ++ [i]) s = .next u :=
  (execAll_join is [i] s t h).trans (execAll_cons hi)

/-- A run has one outcome. -/
theorem eq_of_execAll {is : List Instr} {s t u : State} (h : execAll is s = .next t)
    (h' : execAll is s = .next u) : u = t :=
  Host.Outcome.next.inj (h'.symm.trans h)

/-! ### READ_DISTANCE (R152) -/

/-- The ReadDistance request frame (R151). -/
theorem readDistance_request_bytes :
    encP0 0x6233#16 = [0x62#8, 0x33#8, 0x09#8, 0xFF#8, 0xFF#8, 0x00#8, 0x00#8, 0x00#8, 0x58#8] := by
  decide

/-- Under the default table the issue step sends that frame, and its window expects that id. -/
theorem issueRead_of_defaultCmdTable {s : State} (htab : s.cmdTable = Config.defaultCmdTable) :
    s.issueRead = { s with
      txlog := s.txlog ++ [0x62#8, 0x33#8, 0x09#8, 0xFF#8, 0xFF#8, 0x00#8, 0x00#8, 0x00#8, 0x58#8]
      exp := 0x6233#16, cnt := 0#4, acc := 0x00#8, ph := .rx, waiting := some .readDistance, ret := none } := by
  have hid : s.cmdTable.readDistance = 0x6233#16 := congrArg CmdTable.readDistance htab
  rw [← readDistance_request_bytes, issueRead_eq, hid]
  rfl

/-- Once the window has closed, the operation waited for returns (R152, R242; log 3). -/
theorem step_returns {s : State} {c : Call} (hf : s.flt = none) (hp : s.ph = .idle)
    (hw : s.waiting = some c) : step s = .next (s.completeCall c) := by
  simp [step, whenLive_live hf, callDue_some.2 ⟨hp, hw⟩]

/-! ### How the last window went (R159) -/

/-- `s` with another story of how its last windows went. -/
def State.withWindow (s : State) (st : BitVec 3) (cnt : BitVec 4) (buf : Vector Byte 9) (acc : Byte)
    (exp : Word16) : State :=
  { s with st := st, cnt := cnt, buf := buf, acc := acc, exp := exp }

/-- AVAIL, GET_DISTANCE and GET_LAST neither read nor write how the last windows went. -/
theorem exec_read_withWindow {s : State} {i : Instr} (hi : i = .avail ∨ i = .getDistance ∨ i = .getLast)
    (hf : s.flt = none) (hp : s.ph = .idle) (st : BitVec 3) (cnt : BitVec 4) (buf : Vector Byte 9)
    (acc : Byte) (exp : Word16) :
    ∃ t, exec i s = .next t ∧
      exec i (s.withWindow st cnt buf acc exp) = .next (t.withWindow st cnt buf acc exp) := by
  have hflt : (s.withWindow st cnt buf acc exp).flt = none := hf
  have hph : (s.withWindow st cnt buf acc exp).ph = .idle := hp
  rcases hi with rfl | rfl | rfl
  · exact ⟨_, exec_of_answers answers_avail hf hp, exec_of_answers answers_avail hflt hph⟩
  · exact ⟨_, exec_of_answers answers_getDistance hf hp, exec_of_answers answers_getDistance hflt hph⟩
  · exact ⟨_, exec_of_answers answers_getLast hf hp, exec_of_answers answers_getLast hflt hph⟩

/-- The return of READ_DISTANCE neither reads nor writes how the last windows went. -/
theorem completeCall_withWindow (s : State) (c : Call) (st : BitVec 3) (cnt : BitVec 4)
    (buf : Vector Byte 9) (acc : Byte) (exp : Word16) :
    (s.withWindow st cnt buf acc exp).completeCall c =
      (s.completeCall c).withWindow st cnt buf acc exp := by
  cases c <;> rfl

end Sys2Proof.Machine

/-! ### The statements of spec/44_result.md -/

namespace Sys2Proof.Proofs

open Sys2Proof.Machine

/-- Settles O25: the issue step stands behind the prelude of a host operation, and the default table's id gives
its frame and its window. -/
theorem readDistanceIssues : Obligations.ReadDistanceIssues := by
  intro s htab
  refine ⟨guarded_of_hostOp rfl, fun hf hp => ?_⟩
  rw [exec_readDistance_idle hf hp, issueRead_of_defaultCmdTable htab]

/-- Settles O26: the return is due exactly once the window has closed. -/
theorem readDistanceReturnsTheReading : Obligations.ReadDistanceReturnsTheReading := fun _ hf hw =>
  ⟨fun hp => step_returns hf hp hw, fun hp => step_of_no_input hf (callDue_rx hp)⟩

/-- Settles O28: RESET clears `AV` and an accepted frame sets it, both leaving the codec idle. -/
theorem availReturnsTheFlag : Obligations.AvailReturnsTheFlag :=
  ⟨decode_encode (i := .avail) rfl, answers_avail,
    after_reset fun _ hf => exec_of_answers answers_avail hf rfl,
    fun _ _ hf => exec_of_answers answers_avail hf rfl⟩

/-- Settles O29: after RESET `AV` is already 0, so clearing it changes nothing. -/
theorem getDistanceConsumes : Obligations.GetDistanceConsumes :=
  ⟨decode_encode (i := .getDistance) rfl, answers_getDistance,
    after_reset fun _ hf => exec_of_answers answers_getDistance hf rfl⟩

/-- Settles O30: an accepted frame's distance stands in `DR` and in `DV`, and each read answers from its own. -/
theorem getLastReadsWithoutConsuming : Obligations.GetLastReadsWithoutConsuming :=
  ⟨decode_encode (i := .getLast) rfl, answers_getLast,
    fun _ _ hf => ⟨exec_of_answers answers_getLast hf rfl, exec_of_answers answers_getDistance hf rfl⟩,
    after_reset fun _ hf => exec_of_answers answers_getLast hf rfl⟩

/-- Settles O31: RESET writes `ST` = 0 and a timeout `ST` = 2, both leaving the codec idle. -/
theorem getStatusReturnsTheCode : Obligations.GetStatusReturnsTheCode := by
  refine ⟨answers_getStatus, after_reset fun _ hf => exec_of_answers answers_getStatus hf rfl,
    fun s t hp hc h => ?timeout⟩
  case timeout =>
    have hf : s.flt = none := (exec_next h).1
    obtain rfl := Host.Outcome.next.inj ((exec_rxTimeout_open hf hp hc).symm.trans h)
    exact exec_of_answers answers_getStatus hf rfl

/-- Settles O32: every read leaves the codec live and idle and both registers as they were, so the run is its
five answers, and the first GET_DISTANCE alone clears `AV`. -/
theorem readingIsConsumedOnce : Obligations.ReadingIsConsumedOnce := by
  rintro s V hf hp hav rfl hdr
  have havail := execAll_concat (is := []) rfl (exec_of_answers answers_avail hf hp)
  have hlast := execAll_concat havail (exec_of_answers answers_getLast hf hp)
  have hfirst := execAll_concat hlast (exec_of_answers answers_getDistance hf hp)
  have hgone := execAll_concat hfirst (exec_of_answers answers_avail hf hp)
  have hsecond := execAll_concat hgone (exec_of_answers answers_getDistance hf hp)
  refine ⟨fun t h => ?_, fun t h => ?_, fun t h => ?_, fun t h => ?_, _, hsecond, rfl, rfl⟩
  · rw [eq_of_execAll havail h, hav]
  · rw [eq_of_execAll hlast h, hdr]
  · rw [eq_of_execAll hfirst h]
  · rw [eq_of_execAll hgone h]

/-- Settles O33: neither the reads nor the return of READ_DISTANCE touch what the two states differ in. -/
theorem failureKindsLookAlike : Obligations.FailureKindsLookAlike := by
  intro s st cnt buf acc exp i hi hf hp
  obtain ⟨t, hs, hother⟩ := exec_read_withWindow hi hf hp st cnt buf acc exp
  refine ⟨t, hs, hother, fun hw => ⟨s.completeCall .readDistance, step_returns hf hp hw, ?_⟩⟩
  calc step (s.withWindow st cnt buf acc exp)
      = .next ((s.withWindow st cnt buf acc exp).completeCall .readDistance) := step_returns hf hp hw
    _ = .next ((s.completeCall .readDistance).withWindow st cnt buf acc exp) :=
        congrArg _ (completeCall_withWindow s .readDistance st cnt buf acc exp)

end Sys2Proof.Proofs
end

section
/-! The command operations: spec/45_command_frames.md. Each command is `sendCommand` of its guard and of a frame
ENC builds (R170), so its statement is three facts: what `sendCommand` does, what its guard says as a
number, and what its frame is under the default command table (R12). -/

namespace Sys2Proof.Machine

open Sys2Proof.Claims (Commands Sends returned wire)

theorem addressGuard_iff {a : Word16} : addressGuard a = true ↔ a.toNat ≤ 0xFFFE := by
  simp [addressGuard, BitVec.le_def]

/-! ### What a command does (R170, R171) -/

/-- With its guard failed a command writes no register and sends no byte (R171). -/
theorem sendCommand_of_guard_failed {s : State} (hf : s.flt = none) (hp : s.ph = .idle) {g : Bool}
    (hg : ¬ g = true) (frame : List Byte) :
    sendCommand g frame s = .next (returned .paramOutOfRange s) := by
  rw [sendCommand_idle hf hp, if_neg hg]
  rfl

/-- An instruction that is `sendCommand` sends its frame exactly when its guard passes. -/
theorem sends_of_sendCommand {i : Instr} {s : State} {g : Bool} {P : Prop} {frame : List Byte}
    (h : exec i s = sendCommand g frame s) (hg : g = true ↔ P) : Sends i P frame s := by
  refine ⟨guarded_of_hostOp h, fun hf hp hP => ?passed, fun hf hp hP => ?failed⟩
  case passed =>
    rw [h, sendCommand_idle hf hp, if_pos (hg.2 hP)]
    rfl
  case failed => exact h.trans (sendCommand_of_guard_failed hf hp (mt hg.1 hP) frame)

/-! ### The frames on the line (R60, R64, R66) -/

/-- A frame whose id has the high byte 0x62: the first and third byte of its checksum fold to 0x6B. -/
theorem enc_eq_wire (lo p0 p1 : Byte) :
    enc (be16 0x62#8 lo) p0 p1 0x00#8 = wire lo p0 p1 (0x6B#8 ^^^ lo ^^^ p0 ^^^ p1) := by
  have hchk : chk (frameBody (be16 0x62#8 lo) p0 p1 0x00#8) = 0x6B#8 ^^^ lo ^^^ p0 ^^^ p1 :=
    calc chk (frameBody (be16 0x62#8 lo) p0 p1 0x00#8)
        = 0x62#8 ^^^ lo ^^^ 0x09#8 ^^^ p0 ^^^ p1 := by simp [chk_frameBody, Config.lenTag]
      _ = (0x62#8 ^^^ 0x09#8) ^^^ lo ^^^ p0 ^^^ p1 := by ac_rfl
      _ = 0x6B#8 ^^^ lo ^^^ p0 ^^^ p1 := rfl
  rw [enc, hchk]
  simp [frameBody, wire, Config.lenTag, Config.addrHi, Config.addrLo]

/-- A command that takes its id from the table's entry `id` sends, under the default table, the frame of that
entry's default, with the checksum ENC computes. -/
theorem commands_of_default_id (id : CmdTable → Word16) {i : Instr} {g : Bool} {P : Prop}
    {lo p0 p1 c : Byte} (hexec : ∀ s, exec i s = sendCommand g (enc (id s.cmdTable) p0 p1 0x00#8) s)
    (hg : g = true ↔ P) (hid : id Config.defaultCmdTable = be16 0x62#8 lo)
    (hc : 0x6B#8 ^^^ lo ^^^ p0 ^^^ p1 = c) : Commands i P (wire lo p0 p1 c) := by
  intro s htab
  have hframe : enc (id s.cmdTable) p0 p1 0x00#8 = wire lo p0 p1 c := by rw [htab, hid, enc_eq_wire, hc]
  exact sends_of_sendCommand ((hexec s).trans (by rw [hframe])) hg

end Sys2Proof.Machine

/-! ### The statements of spec/45_command_frames.md -/

namespace Sys2Proof.Proofs

open Sys2Proof.Machine

/-- Settles O34: the command has no guard, and its two frames differ in param0 and so in the checksum. -/
theorem restoreFactorySends : Obligations.RestoreFactorySends :=
  ⟨decode_encode (i := .cmdRestoreFactory true) rfl, decode_encode (i := .cmdRestoreFactory false) rfl,
    commands_of_default_id CmdTable.restoreFactory (fun _ => rfl) (iff_of_true rfl trivial) rfl (by decide),
    commands_of_default_id CmdTable.restoreFactory (fun _ => rfl) (iff_of_true rfl trivial) rfl (by decide)⟩

/-- Settles O35: the address's halves are the frame's two parameters. -/
theorem changeAddressSends : Obligations.ChangeAddressSends := fun a =>
  ⟨decode_encode (i := .cmdChangeAddress a) rfl,
    commands_of_default_id CmdTable.changeAddress (fun _ => rfl) addressGuard_iff rfl rfl⟩

/-- Settles O36: `baudGuard` passes exactly codes 0 to 9. -/
theorem changeBaudSends : Obligations.ChangeBaudSends := fun v =>
  ⟨decode_encode (i := .cmdChangeBaud v) rfl,
    commands_of_default_id CmdTable.changeBaud (fun _ => rfl) baudGuard_iff rfl (by simp)⟩

/-- Settles O37: the command has no guard, and its two frames differ in param0 and so in the checksum. -/
theorem setUploadModeSends : Obligations.SetUploadModeSends :=
  ⟨decode_encode (i := .cmdSetUploadMode true) rfl, decode_encode (i := .cmdSetUploadMode false) rfl,
    commands_of_default_id CmdTable.setUploadMode (fun _ => rfl) (iff_of_true rfl trivial) rfl (by decide),
    commands_of_default_id CmdTable.setUploadMode (fun _ => rfl) (iff_of_true rfl trivial) rfl (by decide)⟩

/-- Settles O38: `intervalGuard` passes exactly values 1 to 100. -/
theorem setUploadIntervalSends : Obligations.SetUploadIntervalSends := fun v =>
  ⟨decode_encode (i := .cmdSetUploadInterval v) rfl,
    commands_of_default_id CmdTable.setUploadInterval (fun _ => rfl) intervalGuard_iff rfl (by simp)⟩

/-- Settles O39: `ledGuard` passes exactly modes 0 to 3. -/
theorem setLedModeSends : Obligations.SetLedModeSends := fun v =>
  ⟨decode_encode (i := .cmdSetLedMode v) rfl,
    commands_of_default_id CmdTable.setLedMode (fun _ => rfl) ledGuard_iff rfl (by simp)⟩

/-- Settles O40: `relayGuard` passes exactly modes 0 and 1. -/
theorem setRelayModeSends : Obligations.SetRelayModeSends := fun v =>
  ⟨decode_encode (i := .cmdSetRelayMode v) rfl,
    commands_of_default_id CmdTable.setRelayMode (fun _ => rfl) relayGuard_iff rfl (by simp)⟩

/-- Settles O41: `commGuard` passes exactly modes 0 and 1. -/
theorem setCommModeSends : Obligations.SetCommModeSends := fun v =>
  ⟨decode_encode (i := .cmdSetCommMode v) rfl,
    commands_of_default_id CmdTable.setCommMode (fun _ => rfl) commGuard_iff rfl (by simp)⟩

/-- Settles O42: each argument is outside what its command's guard passes, and then `sendCommand` only returns;
the frame, and so the command table, does not matter. -/
theorem failedGuardSendsNothing : Obligations.FailedGuardSendsNothing := by
  intro s i hf hp hcmd
  rcases hcmd with ⟨a, rfl, ha⟩ | ⟨v, rfl, hv⟩ | ⟨v, rfl, hv⟩ | ⟨v, rfl, hv⟩ | ⟨v, rfl, hv⟩ | ⟨v, rfl, hv⟩
  · exact sendCommand_of_guard_failed hf hp (mt addressGuard_iff.1 (by omega)) _
  · exact sendCommand_of_guard_failed hf hp (mt baudGuard_iff.1 (by omega)) _
  · exact sendCommand_of_guard_failed hf hp (mt intervalGuard_iff.1 (by omega)) _
  · exact sendCommand_of_guard_failed hf hp (mt ledGuard_iff.1 (by omega)) _
  · exact sendCommand_of_guard_failed hf hp (mt relayGuard_iff.1 (by omega)) _
  · exact sendCommand_of_guard_failed hf hp (mt commGuard_iff.1 (by omega)) _

end Sys2Proof.Proofs
end

section
/-! Waits and windows in a run: spec/70_reset_and_hazards.md section 3. What a step at an open window can do is
said once; along a run it keeps the host waiting, and leaves the window open with `CNT` no smaller or closes it.
Under the fairness assumption `CNT` grows until the window is closed; the return follows in the next step. -/

namespace Sys2Proof.Machine

open Sys2Proof.Claims (Answers)

theorem answers_rxArm (e : Word16) : Answers (.rxArm e) fun s => (s.arm e).awaitClose .rxArm :=
  answers_of_hostOp fun _ => rfl

/-! ### A step at an open window -/

/-- The inversion of `step` at an open window: no operation returns, so an input is read at most, and then it
has an instruction's effect, brings bytes, is ILLEGAL_OP or is a device frame. -/
theorem step_next_of_open {s t : State} (hp : s.ph = .rx) (h : step s = .next t) :
    ∃ is, (∃ i, Effect (s.withInputs is) i t) ∨ t = s.withInputs is ∨
      (∃ bs, t = (s.withInputs is).arrive bs) ∨ t = (s.withInputs is).raise .illegalOp ∨
      ∃ bs, t = (((s.withInputs is).arrive bs).deliver 9).withRet (some (.done .unit)) := by
  obtain ⟨-, ⟨c, hc, -⟩ | ⟨-, -, rfl⟩ | ⟨-, inp, is, i, left, -, -, hx⟩ | ⟨-, inp, is, -, -, hx⟩⟩ :=
    step_next h
  · simp [callDue_rx hp] at hc
  · exact ⟨t.inputs, .inr (.inl rfl)⟩
  · exact ⟨_, .inl ⟨i, (exec_next hx).2⟩⟩
  · obtain harrive | hsame | hillegal | hframe := otherInput_next hx
    · exact ⟨is, .inr (.inr (.inl harrive))⟩
    · exact ⟨is, .inr (.inl hsame)⟩
    · exact ⟨is, .inr (.inr (.inr (.inl hillegal)))⟩
    · exact ⟨is, .inr (.inr (.inr (.inr hframe)))⟩

/-- While a window is open no step ends the host's wait (R242). -/
theorem step_waiting_of_open {s t : State} (hp : s.ph = .rx) (h : step s = .next t) :
    t.waiting = s.waiting := by
  obtain ⟨is, ⟨i, heffect⟩ | rfl | ⟨bs, rfl⟩ | rfl | ⟨bs, rfl⟩⟩ := step_next_of_open hp h
  · exact heffect.waiting_of_open hp
  · rfl
  · rfl
  · rfl
  · simp

/-- A step at an open window closes it, or leaves `CNT` at least where it was (R125). -/
theorem step_cnt_of_open {s t : State} (hp : s.ph = .rx) (hc : s.cnt ≤ 9#4) (h : step s = .next t) :
    t.ph = .idle ∨ s.cnt ≤ t.cnt := by
  obtain ⟨is, ⟨i, heffect⟩ | rfl | ⟨bs, rfl⟩ | rfl | ⟨bs, rfl⟩⟩ := step_next_of_open hp h
  · exact heffect.cnt_of_open hp hc
  · exact .inr (BitVec.le_refl _)
  · exact .inr (BitVec.le_refl _)
  · exact .inr (BitVec.le_refl _)
  · exact .inr (deliver_cnt_le ((s.withInputs is).arrive bs) 9 hc)

/-! ### Runs -/

/-- What every register-writing operation keeps holds all along a run. -/
theorem KeptByOps.run {P : State → Prop} (hP : KeptByOps P) {r : Nat → State} (hr : Run r) (h0 : P (r 0)) :
    ∀ n, P (r n)
  | 0 => h0
  | n + 1 => by
    obtain ⟨t, more, hstep, hnext⟩ := hr n
    have ht : P t := hP.step (hP.run hr h0 n) hstep
    rw [hnext]
    exact hP.of_registers_eq ht rfl

section Runs

variable {r : Nat → State} (hr : Run r)
include hr

/-- A run goes on for ever, so it never faults (R220). -/
theorem Run.live (n : Nat) : (r n).flt = none := by
  obtain ⟨t, more, hstep, -⟩ := hr n
  exact (step_next hstep).1

theorem Run.waiting_succ {n : Nat} (hp : (r n).ph = .rx) : (r (n + 1)).waiting = (r n).waiting := by
  obtain ⟨t, more, hstep, hnext⟩ := hr n
  rw [hnext, State.withInputs_waiting]
  exact step_waiting_of_open hp hstep

theorem Run.cnt_succ {n : Nat} (hp : (r n).ph = .rx) (hc : (r n).cnt ≤ 9#4) :
    (r (n + 1)).ph = .idle ∨ (r n).cnt ≤ (r (n + 1)).cnt := by
  obtain ⟨t, more, hstep, hnext⟩ := hr n
  rw [hnext, State.withInputs_ph, State.withInputs_cnt]
  exact step_cnt_of_open hp hc hstep

/-- RX_TIMEOUT and RESET close the window (R127, R231). -/
theorem Run.closes {n : Nat} (hi : (r n).nextInstr = some .rxTimeout ∨ (r n).nextInstr = some .reset)
    (hp : (r n).ph = .rx) (hc : (r n).cnt < 9#4) : (r (n + 1)).ph = .idle := by
  obtain ⟨t, more, hstep, hnext⟩ := hr n
  rw [hnext, State.withInputs_ph]
  exact step_closes hi hstep hp hc

/-- With no window open, the operation waited for returns in the next step (R242; log 3). -/
theorem Run.returns {n : Nat} {c : Call} (hp : (r n).ph = .idle) (hw : (r n).waiting = some c) :
    (r (n + 1)).waiting = none ∧ (r (n + 1)).ret = some (.done ((r n).callValue c)) := by
  obtain ⟨t, more, hstep, hnext⟩ := hr n
  obtain rfl := Host.Outcome.next.inj ((step_returns (hr.live n) hp hw).symm.trans hstep)
  rw [hnext]
  exact ⟨rfl, rfl⟩

/-- A wait lasts as long as its window is open. -/
theorem Run.waiting_while_open {n m : Nat} (hnm : n ≤ m) (hopen : ∀ k, n ≤ k → k < m → (r k).ph = .rx) :
    (r m).waiting = (r n).waiting := by
  induction m, hnm using Nat.le_induction with
  | base => rfl
  | succ m hnm ih =>
    calc (r (m + 1)).waiting
        = (r m).waiting := hr.waiting_succ (hopen m hnm m.lt_succ_self)
      _ = (r n).waiting := ih fun k hnk hkm => hopen k hnk (Nat.lt_succ_of_lt hkm)

/-! ### Windows end under the fairness assumption (R242) -/

variable (hinv : ∀ n, (r n).Inv)
include hinv

/-- From an open window on, the run closes it, or is still in a window that holds no fewer bytes. -/
theorem Run.closed_or_open {n m : Nat} (hnm : n ≤ m) (hp : (r n).ph = .rx) :
    (∃ k, n < k ∧ (r k).ph = .idle) ∨ ((r m).ph = .rx ∧ (r n).cnt ≤ (r m).cnt) := by
  induction m, hnm using Nat.le_induction with
  | base => exact .inr ⟨hp, BitVec.le_refl _⟩
  | succ m hnm ih =>
    obtain hclosed | ⟨hpm, hcnt⟩ := ih
    · exact .inl hclosed
    · cases hnext : (r (m + 1)).ph with
      | idle => exact .inl ⟨m + 1, Nat.lt_succ_of_le hnm, hnext⟩
      | rx =>
        have hgrow := (hr.cnt_succ hpm (hinv m).cnt_legal).resolve_left (by simp [hnext])
        exact .inr ⟨rfl, BitVec.le_trans hcnt hgrow⟩

variable (hfair : TimeoutFair r)
include hfair

/-- Under the fairness assumption an open window is closed, or takes one more byte. -/
theorem Run.closed_or_fuller {n : Nat} (hp : (r n).ph = .rx) :
    (∃ k, n < k ∧ (r k).ph = .idle) ∨ ∃ m, n < m ∧ (r m).ph = .rx ∧ (r n).cnt < (r m).cnt := by
  obtain ⟨m, hnm, hevent⟩ := hfair n hp
  obtain hclosed | ⟨hpm, hcnt⟩ := hr.closed_or_open hinv hnm hp
  · exact .inl hclosed
  · obtain ⟨-, hbyte⟩ | hcloses := hevent
    · cases hnext : (r (m + 1)).ph with
      | idle => exact .inl ⟨m + 1, Nat.lt_succ_of_le hnm, hnext⟩
      | rx => exact .inr ⟨m + 1, Nat.lt_succ_of_le hnm, hnext, by bv_omega⟩
    · exact .inl ⟨m + 1, Nat.lt_succ_of_le hnm, hr.closes hcloses hpm ((hinv m).open_room hpm)⟩

/-- Every window ends: by induction on the bytes it has room for. -/
theorem Run.window_ends (n : Nat) (hp : (r n).ph = .rx) : ∃ m, n < m ∧ (r m).ph = .idle := by
  induction hroom : 9 - (r n).cnt.toNat using Nat.strong_induction_on generalizing n with
  | _ room ih =>
    obtain hclosed | ⟨m, hnm, hpm, hfuller⟩ := hr.closed_or_fuller hinv hfair hp
    · exact hclosed
    · have hlegal : (r m).cnt ≤ 9#4 := (hinv m).cnt_legal
      obtain ⟨k, hmk, hidle⟩ := ih _ (by bv_omega) m hpm rfl
      exact ⟨k, hnm.trans hmk, hidle⟩

/-- From any point of the run there is a first state with no window open. -/
theorem Run.first_idle (n : Nat) :
    ∃ m, n ≤ m ∧ (∀ k, n ≤ k → k < m → (r k).ph = .rx) ∧ (r m).ph = .idle := by
  have hsome : ∃ m, n ≤ m ∧ (r m).ph = .idle := by
    cases hp : (r n).ph with
    | idle => exact ⟨n, le_rfl, hp⟩
    | rx =>
      obtain ⟨m, hnm, hidle⟩ := hr.window_ends hinv hfair n hp
      exact ⟨m, hnm.le, hidle⟩
  obtain ⟨m, ⟨hnm, hidle⟩, hfirst⟩ := Nat.findX hsome
  refine ⟨m, hnm, fun k hnk hkm => ?_, hidle⟩
  cases hp : (r k).ph with
  | idle => exact absurd ⟨hnk, hp⟩ (hfirst k hkm)
  | rx => rfl

end Runs

end Sys2Proof.Machine

/-! ### The statements of spec/70_reset_and_hazards.md -/

namespace Sys2Proof.Proofs

open Sys2Proof.Machine

/-- Settles O60: the wait lasts exactly until the first state with no window open, which the fairness assumption
provides, and the next step is its return. -/
theorem waitsEndUnderTheFairnessAssumption : Obligations.WaitsEndUnderTheFairnessAssumption := by
  refine ⟨fun s t h hp => step_waiting_of_open hp h, fun r hr h0 hfair => ?run⟩
  case run =>
    have hinv : ∀ n, (r n).Inv := keptByOps_inv.run hr h0
    refine ⟨hr.window_ends hinv hfair, fun n c hw => ?wait⟩
    case wait =>
      obtain ⟨m, hnm, hopen, hidle⟩ := hr.first_idle hinv hfair n
      have hwaits : ∀ k, n ≤ k → k ≤ m → (r k).waiting = some c := fun k hnk hkm =>
        (hr.waiting_while_open hnk fun j hnj hjk => hopen j hnj (hjk.trans_le hkm)).trans hw
      obtain ⟨hdone, hret⟩ := hr.returns hidle (hwaits m hnm le_rfl)
      refine ⟨m, hnm, fun k hnk hkm => ⟨hopen k hnk hkm, hwaits k hnk hkm.le⟩, hidle, hwaits m hnm le_rfl,
        hdone, ?_⟩
      rw [hret]
      cases c <;> rfl

/-- Settles O16: RX_ARM is the prelude of a host operation and behind it the window opened; its return is due
exactly once the window has closed. -/
theorem rxArmOpensAWindow : Obligations.RxArmOpensAWindow :=
  ⟨answers_rxArm, fun _ hf hw =>
    ⟨fun hp => step_returns hf hp hw, fun hp => step_of_no_input hf (callDue_rx hp)⟩⟩

end Sys2Proof.Proofs
end

section
/-! The decoder's two statements, its refusals and its rows: spec/30_encoding.md sections 1 to 6. -/

namespace Sys2Proof

/-- An op code in neither table is refused by every row of the table (R70, R71). -/
theorem decodeOp_of_unlisted {op : Byte} (rest : List Byte)
    (hop : op ∉ [0x00#8, 0x01#8, 0x02#8, 0x03#8, 0x04#8, 0x05#8, 0x06#8, 0x07#8, 0x10#8, 0x11#8, 0x12#8,
      0x13#8, 0x14#8, 0x15#8, 0x16#8, 0x17#8, 0x80#8, 0x81#8]) :
    decodeOp op rest = .error (.unknownOpCode op) := by
  simp only [List.mem_cons, List.not_mem_nil, or_false, not_or] at hop
  simp only [decodeOp, hop, if_false]

/-- A Boolean operand is 0x01 or 0x00 and no other byte (R70). -/
theorem readBool_of_not_boolean {op v : Byte} (k : Bool → Instr) (rest : List Byte) (h0 : v ≠ 0x00#8)
    (h1 : v ≠ 0x01#8) : readBool op k (v :: rest) = .error (.badBoolean op v) := by
  simp only [readBool, h0, h1, if_false]

end Sys2Proof

namespace Sys2Proof.Machine

open Sys2Proof.Claims (wire)

/-- What the decoder refuses is no instruction to `step` (log 21). -/
theorem inputInstr_code_of_error {bs : List Byte} {e : DecodeError} (h : decode .opCode bs = .error e) :
    inputInstr (.code bs) = none := by
  simp only [inputInstr, h, Except.toOption]

/-- The frame of an id 0x62 `lo`, with its checksum in the form the opcode table gives it. -/
theorem enc_eq_wire_of_id {id : Word16} {lo p0 p1 c : Byte} (hid : id = be16 0x62#8 lo)
    (hc : 0x6B#8 ^^^ lo ^^^ p0 ^^^ p1 = c) : enc id p0 p1 0x00#8 = wire lo p0 p1 c := by
  rw [hid, enc_eq_wire, hc]

/-- A command-frame row's bytes are a frame that ENC builds exactly when they end in its checksum. -/
theorem sentBytes_eq_enc_iff {id : Word16} {lo p0 p1 c k : Byte} (hid : id = be16 0x62#8 lo)
    (hk : 0x6B#8 ^^^ lo ^^^ p0 ^^^ p1 = k) : sentBytes lo p0 p1 c = enc id p0 p1 0x00#8 ↔ c = k := by
  rw [enc_eq_wire_of_id hid hk]
  simp [sentBytes, wire, Config.lenTag, Config.addrHi, Config.addrLo]

end Sys2Proof.Machine

/-! ### The statements of spec/30_encoding.md sections 1 to 6 -/

namespace Sys2Proof.Proofs

open Sys2Proof.Machine

/-- Settles O2: the round trip of each instruction (Laws/PerInstr), for all of them. -/
theorem decodeInvertsEncode : Obligations.DecodeInvertsEncode :=
  fun _ rest hi => decode_encode_append hi rest

/-- Settles O3: each reader takes exactly the bytes it answers for (Laws/Decode), in every format. -/
theorem decodeReadsOnlyEncodings : Obligations.DecodeReadsOnlyEncodings :=
  fun _ _ _ _ h => decode_ok h

/-- Settles O1: the decoder, run on each of the twelve words. -/
theorem specWordsDecodeToTheirRows : Obligations.SpecWordsDecodeToTheirRows := by
  unfold Obligations.SpecWordsDecodeToTheirRows
  decide

/-- Settles O4: no row matches an unlisted op code, and the rows of 0x10 and 0x13 read a Boolean. -/
theorem unlistedOpCodesSpellNothing : Obligations.UnlistedOpCodesSpellNothing := by
  refine ⟨fun op rest hop => decodeOp_of_unlisted rest hop, fun op v rest hop h0 h1 => ?_⟩
  rcases hop with rfl | rfl
  · exact readBool_of_not_boolean _ rest h0 h1
  · exact readBool_of_not_boolean _ rest h0 h1

/-- Settles O5: a refused sequence is an input that spells no instruction, and one with a byte in it faults. -/
theorem illegalEncodingFaults : Obligations.IllegalEncodingFaults :=
  fun _ _ _ _ _ hf hc hin he => step_of_otherInput hf hc hin (inputInstr_code_of_error he)

/-- Settles O6: each row's formula is the fold of its constant bytes, XORed with its operands. -/
theorem commandWordsCarryTheRowChecksum : Obligations.CommandWordsCarryTheRowChecksum := fun _ _ _ =>
  ⟨sentBytes_eq_enc_iff rfl rfl, sentBytes_eq_enc_iff rfl (by simp), sentBytes_eq_enc_iff rfl (by simp),
    sentBytes_eq_enc_iff rfl (by simp), sentBytes_eq_enc_iff rfl (by simp),
    sentBytes_eq_enc_iff rfl (by simp), sentBytes_eq_enc_iff rfl (by simp)⟩

end Sys2Proof.Proofs
end

section
/-! LINK_IN, the line events and the device frames: spec/20_memory.md section 3 and spec/43_receive.md sections 3
and 4. A device frame is its bytes' arrival and a run of RX_BYTE events, so what LINK_IN loses and what a window
makes of the frame follow from the rules of one byte. -/

namespace Sys2Proof

open Sys2Proof.Machine

/-- The bytes an instruction brings into `LINK_IN`: a device frame's own, and no others (R45). -/
def Instr.arriving (i : Instr) : List Byte :=
  if i.format = .frame .deviceToHost then encode i else []

theorem Instr.arriving_of_report {i : Instr} (hi : i.format = .frame .deviceToHost) :
    i.arriving = encode i :=
  if_pos hi

/-- What the host issues or the FC sends brings no byte in. -/
theorem Instr.arriving_of_host {i : Instr} (hi : i.isHostOp = true ∨ i.isSentFrame = true) :
    i.arriving = [] := by
  cases i with
  | distanceReport | distanceReportHdr => rcases hi with h | h <;> cases h
  | _ => rfl

end Sys2Proof

namespace Sys2Proof.Machine

open Sys2Proof.Claims (filled isRx judged)

/-! ### What leaves LINK_IN (R45) -/

/-- Between `s` and `t` the instruction `i` took exactly `taken` from the head of `LINK_IN`, its own bytes having
come in at the tail; a byte is taken by a line event into an open window with room, and counted. -/
def Takes (i : Instr) (s t : State) (taken : List Byte) : Prop :=
  s.linkIn ++ i.arriving = taken ++ t.linkIn ∧
  (taken ≠ [] → isRx i ∧ s.ph = .rx ∧ taken.length + s.cnt.toNat ≤ 9 ∧
    t.cnt.toNat = s.cnt.toNat + taken.length)

theorem takes_nil {i : Instr} {s t : State} (hi : i.arriving = []) (hl : t.linkIn = s.linkIn) :
    Takes i s t [] :=
  ⟨by rw [hi, hl, List.append_nil, List.nil_append], fun h => absurd rfl h⟩

/-- A run of RX_BYTE events behind the arrival of the instruction's bytes. -/
theorem takes_deliver {i : Instr} (hi : isRx i) (s : State) (n : Nat) (r : Option Report) :
    ∃ taken, Takes i s (((s.arrive i.arriving).deliver n).withRet r) taken := by
  obtain ⟨⟨taken, hlink, hcnt, hroom⟩, -⟩ := deliver_cases n (s.arrive i.arriving)
  refine ⟨taken, hlink, fun hne => ?_⟩
  obtain ⟨hp, hle⟩ := hroom hne
  exact ⟨hi, hp, hle, hcnt⟩

theorem arrive_nil (s : State) : s.arrive [] = s := by
  simp [State.arrive]

/-- Every effect takes a run of bytes from the head of `LINK_IN`: all but those of received bytes take none. -/
theorem Effect.exists_takes {s t : State} {i : Instr} (h : Effect s i t) : ∃ taken, Takes i s t taken := by
  cases h with
  | overlap _ hi | sent _ _ _ _ _ _ hi | answered _ _ hi =>
    exact ⟨[], takes_nil (Instr.arriving_of_host hi) rfl⟩
  | reset | consumed | armed | issued | timeout => exact ⟨[], takes_nil rfl rfl⟩
  | disabled hi => rcases hi with ⟨b, rfl⟩ | rfl <;> exact ⟨[], takes_nil rfl rfl⟩
  | byte b hp hc hl =>
    have hone := takes_deliver (i := .rxByte b) (.inl ⟨b, rfl⟩) s 1 (some (.done .unit))
    rwa [show (Instr.rxByte b).arriving = [] from rfl, arrive_nil, ← takeByte_eq_deliver hp hc hl] at hone
  | report hi =>
    rw [← Instr.arriving_of_report hi]
    exact takes_deliver (isRx_of_format hi) s 9 _

/-! ### Line events (R125, R127, R128) -/

/-- One of bytes 0..7 goes to `BUF[CNT]` and is folded into `ACC`. -/
theorem storeByte_early {s : State} {b : Byte} {rest : List Byte} (hc : s.cnt.toNat < 8)
    (hl : s.linkIn = b :: rest) :
    s.storeByte b = { s with
      linkIn := rest, buf := s.buf.set s.cnt.toNat b, acc := s.acc ^^^ b, cnt := s.cnt + 1#4 } := by
  have hc' : s.cnt < 8#4 := hc
  simp [State.storeByte, hl, hc', setIfInBounds_of_lt _ _ _ (Nat.lt_succ_of_lt hc)]

/-- An RX_BYTE event that finds no open window, or not its own byte at the head of `LINK_IN` (R128; log 17). -/
theorem exec_rxByte_disabled {s : State} {b : Byte} (hf : s.flt = none)
    (h : s.windowOpen = false ∨ s.linkIn.head? ≠ some b) : exec (.rxByte b) s = noStep s := by
  have hoff : ¬ (s.windowOpen && s.linkIn.head? == some b) = true := by
    rcases h with h | h <;> simp [h]
  exact (whenLive_live hf).trans (if_neg hoff)

theorem exec_rxTimeout_disabled {s : State} (hf : s.flt = none) (h : s.windowOpen = false) :
    exec .rxTimeout s = noStep s :=
  (whenLive_live hf).trans (if_neg (by simp [h]))

/-- A window that is closed or full is open to no event. -/
theorem windowOpen_eq_false {s : State} (h : s.ph = .idle ∨ 9#4 ≤ s.cnt) : s.windowOpen = false :=
  h.elim windowOpen_idle windowOpen_full

/-! ### Device frames (R65, R72; log 14) -/

/-- A window that has room for the bytes `b :: g` at the head of `LINK_IN` takes them in a run of RX_BYTE events as
it does in one `deliver`: only the last byte may close it. -/
theorem execAll_rxByte_eq_deliver (g : List Byte) : ∀ (s : State) (b : Byte) (rest : List Byte),
    s.flt = none → s.ph = .rx → s.cnt.toNat + g.length < 9 → s.linkIn = b :: (g ++ rest) →
    execAll ((b :: g).map .rxByte) s = .next ((s.deliver (g.length + 1)).withRet (some (.done .unit))) := by
  induction g with
  | nil =>
    intro s b rest hf hp hroom hl
    have hc : s.cnt < 9#4 := by simpa [BitVec.lt_def] using hroom
    rw [deliver_step hl (windowOpen_of hp hc)]
    exact execAll_cons (exec_rxByte_open hf hp hc hl)
  | cons b' g ih =>
    intro s b rest hf hp hroom hl
    rw [List.length_cons] at hroom
    have hc8 : s.cnt < 8#4 := by bv_omega
    have hc9 : s.cnt < 9#4 := by bv_omega
    have hcnt : (s.storeByte b).cnt.toNat = s.cnt.toNat + 1 := cnt_succ hc9
    have hstep : exec (.rxByte b) s = .next ((s.storeByte b).withRet (some (.done .unit))) := by
      rw [exec_rxByte_open hf hp hc9 hl, takeByte_early b hc8]
    have hrest := ih ((s.storeByte b).withRet (some (.done .unit))) b' rest hf hp
      (by rw [State.withRet_cnt, hcnt]; omega) (by simp [hl])
    rw [List.map_cons, execAll_cons hstep, hrest, deliver_step hl (windowOpen_of hp hc9), takeByte_early b hc8,
      deliver_withRet, List.length_cons]
    rfl

/-- Nine bytes taken into an empty open window are judged by F_DECODE (R125, R126). -/
theorem execAll_rxByte_nine {s : State} (F : Vector Byte 9) {rest : List Byte} (hf : s.flt = none)
    (hp : s.ph = .rx) (hc : s.cnt = 0#4) (ha : s.acc = 0x00#8) (hl : s.linkIn = F.toList ++ rest) :
    execAll (F.toList.map .rxByte) s = .next (judged (fDecode F.toList s.exp s.hdr)
      (filled F { s with linkIn := rest, ret := some (.done .unit) })) := by
  have hlink : s.linkIn = F.toList.take 8 ++ (F[8] :: rest) := by
    rw [hl, List.append_cons, ← toList_eq_take_eight]
  obtain ⟨t, hrun, hcnt, hacc, hbuf, -, ht⟩ :=
    run_early (F.toList.take 8) s (F[8] :: rest) hf hp (by simp [hc]) hlink
  have hcnt : t.cnt = 8#4 := BitVec.eq_of_toNat_eq (by simpa [hc] using hcnt)
  have hacc : t.acc = chk (F.toList.take 8) := by simpa [ha] using hacc
  have hbuf : t.buf.set 8 F[8] = F := by
    rw [← setIfInBounds_of_lt _ _ _ (by decide)]
    exact setIfInBounds_eight (by simpa [hcnt, hc] using hbuf)
  have hlast := exec_rxByte_ninth_judged (s := t) (b := F[8]) (rest := rest) (by rw [ht]; exact hf)
    (by rw [ht]; exact hp) hcnt (by rw [ht])
  rw [hbuf] at hlast
  calc execAll (F.toList.map .rxByte) s
      = execAll ((F.toList.take 8).map .rxByte ++ [.rxByte F[8]]) s := by
        conv_lhs => rw [toList_eq_take_eight F, List.map_append]
        rfl
    _ = execAll [.rxByte F[8]] t := execAll_join _ _ _ _ hrun
    _ = .next (judged (fDecode F.toList t.exp t.hdr)
          { t with linkIn := rest, buf := F, cnt := 9#4, ret := some (.done .unit) }) := execAll_cons hlast
    _ = .next (judged (fDecode F.toList s.exp s.hdr)
          (filled F { s with linkIn := rest, ret := some (.done .unit) })) := by
        rw [filled, ← hacc, ht]

section Report

variable {s : State} (hf : s.flt = none) (F : Vector Byte 9)
include hf

/-- With no window open a device frame's bytes wait in `LINK_IN` (R45). -/
theorem receiveFrame_idle (hp : s.ph = .idle) :
    receiveFrame F.toList s = .next ((s.arrive F.toList).withRet (some (.done .unit))) := by
  rw [receiveFrame_live _ hf, deliver_closed (s := s.arrive F.toList) (windowOpen_idle hp)]

/-- In an empty window with nothing waiting a device frame is the run of its nine RX_BYTE events (R72). -/
theorem execAll_rxByte_eq_receiveFrame (hp : s.ph = .rx) (hc : s.cnt = 0#4) (hl : s.linkIn = []) :
    execAll (F.toList.map .rxByte) { s with linkIn := F.toList } = receiveFrame F.toList s := by
  have harrive : s.arrive F.toList = { s with linkIn := F.toList } := by simp [State.arrive, hl]
  obtain ⟨b, g, hF, hg⟩ : ∃ b g, F.toList = b :: g ∧ g.length = 8 := ⟨_, _, toList_nine F, rfl⟩
  have hrun := execAll_rxByte_eq_deliver g { s with linkIn := F.toList } b [] hf hp
    (by simp [hc, hg]) (by simp [hF])
  rw [← hF, hg] at hrun
  rw [hrun, receiveFrame_live _ hf, harrive]

/-- In an empty window with nothing waiting a device frame is judged by F_DECODE (R130 to R132). -/
theorem receiveFrame_judged (hp : s.ph = .rx) (hc : s.cnt = 0#4) (ha : s.acc = 0x00#8) (hl : s.linkIn = []) :
    receiveFrame F.toList s = .next (judged (fDecode F.toList s.exp s.hdr)
      (filled F { s with ret := some (.done .unit) })) := by
  rw [← execAll_rxByte_eq_receiveFrame hf F hp hc hl,
    execAll_rxByte_nine (s := { s with linkIn := F.toList }) F hf hp hc ha (List.append_nil _).symm, ← hl]

end Report

end Sys2Proof.Machine

/-! ### The statements of spec/20_memory.md section 3 and spec/43_receive.md sections 3 and 4 -/

namespace Sys2Proof.Proofs

open Sys2Proof.Machine

/-- Settles O58, effect by effect: only a run of RX_BYTE events takes bytes, and it counts them. -/
theorem linkInIsAFifo : Obligations.LinkInIsAFifo :=
  fun _ _ _ h => (exec_next h).2.exists_takes

/-- Settles O24: either row is `receiveFrame` of its nine bytes. -/
theorem reportRowsAreTakenAndJudged : Obligations.ReportRowsAreTakenAndJudged := by
  intro i F hrow s hf
  have hexec : exec i s = receiveFrame F.toList s := by
    rcases hrow with ⟨len, ah, al, d, p2, c, rfl, hF⟩ | ⟨d, p2, c, rfl, hF⟩ <;> rw [hF] <;> rfl
  rw [hexec]
  exact ⟨receiveFrame_judged hf F, receiveFrame_idle hf F, execAll_rxByte_eq_receiveFrame hf F⟩

/-- Settles O17: below the ninth byte RX_BYTE's whole effect is the transfer. -/
theorem rxByteStoresAndFolds : Obligations.RxByteStoresAndFolds := by
  intro s b rest hc hf hp hl
  have hc8 : s.cnt < 8#4 := hc
  rw [exec_rxByte_open hf hp (by bv_omega) hl, takeByte_early b hc8, storeByte_early hc hl]
  rfl

/-- Settles O19: an open window is enabled for the timeout at every count below 9. -/
theorem rxTimeoutIsAShortRead : Obligations.RxTimeoutIsAShortRead :=
  fun _ hf hp hc => exec_rxTimeout_open hf hp hc

/-- Settles O20: each case is a window that is not open, or a head of LINK_IN that is not the event's byte. -/
theorem disabledLineEventsHaveNoStep : Obligations.DisabledLineEventsHaveNoStep := by
  refine fun s hf => ⟨fun b h => exec_rxByte_disabled hf ?byte,
    fun h => exec_rxTimeout_disabled hf (windowOpen_eq_false h)⟩
  case byte =>
    rcases h with hp | hc | hl | ⟨x, rest, hl, hx⟩
    · exact .inl (windowOpen_eq_false (.inl hp))
    · exact .inl (windowOpen_eq_false (.inr hc))
    · exact .inr (by simp [hl])
    · exact .inr (by simpa [hl] using hx)

end Sys2Proof.Proofs
end

section
/-! The command-frame rows: spec/45_command_frames.md, with the rows of opcode_table.json (log 10 to 13). Each row
is `sendCommand` of its guard and of a frame with the id written in the row. -/

namespace Sys2Proof.Machine

open Sys2Proof.Claims (Answers Sends wire)

theorem uploadModeGuard_iff {v : Byte} : uploadModeGuard v = true ↔ v = 0x00#8 ∨ v = 0x01#8 := by
  simp only [uploadModeGuard, decide_eq_true_eq]
  bv_omega

/-- A row that sends the frame of its own id sends its own bytes, with the checksum ENC computes. -/
theorem sends_of_row {i : Instr} {s : State} {g : Bool} {P : Prop} {id : Word16} {lo p0 p1 c : Byte}
    (hexec : exec i s = sendCommand g (enc id p0 p1 0x00#8) s) (hg : g = true ↔ P) (hid : id = be16 0x62#8 lo)
    (hc : 0x6B#8 ^^^ lo ^^^ p0 ^^^ p1 = c) : Sends i P (wire lo p0 p1 c) s :=
  sends_of_sendCommand (hexec.trans (by rw [enc_eq_wire_of_id hid hc])) hg

/-- The request row sends the request frame and returns no value (R151; log 13). -/
theorem answers_readDistanceReq : Answers .readDistanceReq fun s => { s with
    txlog := s.txlog ++ [0x62#8, 0x33#8, 0x09#8, 0xFF#8, 0xFF#8, 0x00#8, 0x00#8, 0x00#8, 0x58#8]
    ret := some (.done .unit) } := by
  rw [← readDistance_request_bytes]
  exact answers_of_hostOp fun _ => rfl

end Sys2Proof.Machine

/-! ### The statements about the command-frame rows -/

namespace Sys2Proof.Proofs

open Sys2Proof.Machine

/-- Settles O44: the row's guard as a number, its id and its checksum; the word's own byte c is not read. -/
theorem commandFrameRowsSend : Obligations.CommandFrameRowsSend := fun _ _ _ _ =>
  ⟨sends_of_row rfl addressGuard_iff rfl rfl,
    sends_of_row rfl baudGuard_iff rfl (by simp),
    sends_of_row rfl uploadModeGuard_iff rfl (by simp),
    sends_of_row rfl intervalGuard_iff rfl (by simp),
    sends_of_row rfl ledGuard_iff rfl (by simp),
    sends_of_row rfl relayGuard_iff rfl (by simp),
    sends_of_row rfl commGuard_iff rfl (by simp)⟩

/-- Settles O45: the rows' own last bytes are the checksums ENC computes. -/
theorem fixedFrameRowsSend : Obligations.FixedFrameRowsSend :=
  ⟨fun _ => ⟨sends_of_row rfl (iff_of_true rfl trivial) rfl (by decide),
    sends_of_row rfl (iff_of_true rfl trivial) rfl (by decide)⟩, answers_readDistanceReq⟩

end Sys2Proof.Proofs
end

section
/-! RESET and the two faults: spec/70_reset_and_hazards.md section 1 and spec/60_exceptions.md section 4. -/

namespace Sys2Proof.Machine

/-! ### RESET and launch (R217, R230, R231) -/

/-- Power-on is a RESET, which takes the first draws (R217; log 5). -/
theorem reset_eq_resetOp : State.reset = State.resetOp { State.reset with draws := 0 } :=
  rfl

/-- At launch no byte is taken, no window has ended, no reading is fresh and no frame is sent. -/
theorem inv_reset : State.reset.Inv where
  cnt_legal := by simp [State.reset]
  open_room h := by cases h
  acc_fold := by simp [State.reset]
  st_legal := by simp [State.reset, stNone]
  reading_alias h := by rcases h with h | h <;> cases h
  sent_frames := ⟨[], rfl⟩

/-! ### A faulted codec, and one with a window open (R211, R220) -/

/-- Every meaning stops in a faulted codec (R220). -/
theorem exec_faulted (i : Instr) {s : State} {r : FaultReason} (hf : s.flt = some r) :
    exec i s = .fault (.stuck r) := by
  cases i with
  | restoreFactoryHard | restoreFactorySoft | changeAddress | changeBaud | setUploadMode
  | setUploadInterval | setLedMode | setRelayMode | setCommMode | readDistanceReq
  | txFrame | rxArm | readDistance | avail | getDistance | getLast | getStatus
  | cmdRestoreFactory | cmdChangeAddress | cmdChangeBaud | cmdSetUploadMode | cmdSetUploadInterval
  | cmdSetLedMode | cmdSetRelayMode | cmdSetCommMode => exact hostOp_faulted hf
  | distanceReport | distanceReportHdr | reset | rxByte | rxTimeout => exact whenLive_faulted hf

/-- Every host operation but RESET, and every frame row, stands behind the concurrency rule (R211; log 10). -/
theorem exec_overlap {i : Instr} {s : State} (hi : (i.isHostOp = true ∧ i ≠ .reset) ∨ i.isSentFrame = true)
    (hf : s.flt = none) (hp : s.ph = .rx) : exec i s = .next (s.raise .concurrentOp) := by
  cases i with
  | restoreFactoryHard | restoreFactorySoft | changeAddress | changeBaud | setUploadMode
  | setUploadInterval | setLedMode | setRelayMode | setCommMode | readDistanceReq
  | txFrame | rxArm | readDistance | avail | getDistance | getLast | getStatus
  | cmdRestoreFactory | cmdChangeAddress | cmdChangeBaud | cmdSetUploadMode | cmdSetUploadInterval
  | cmdSetLedMode | cmdSetRelayMode | cmdSetCommMode => exact hostOp_open hf hp
  | reset | distanceReport | distanceReportHdr | rxByte | rxTimeout =>
    exact absurd hi (by simp [Instr.isHostOp, Instr.isSentFrame, Instr.format])

end Sys2Proof.Machine

/-! ### The statements of spec/70_reset_and_hazards.md section 1 and spec/60_exceptions.md section 4 -/

namespace Sys2Proof.Proofs

open Sys2Proof.Machine

/-- Settles O13: the fields State.reset writes out. -/
theorem resetStateAsSpecified : Obligations.ResetStateAsSpecified :=
  ⟨rfl, rfl, rfl, rfl, rfl, rfl, rfl, rfl, rfl⟩

/-- Settles O14: RESET stands behind the liveness check alone, not behind the concurrency rule. -/
theorem resetRestoresIdle : Obligations.ResetRestoresIdle := fun _ =>
  ⟨fun _ hf => exec_faulted .reset hf, fun hf => whenLive_live hf⟩

/-- Settles O46: the concurrency rule, for every operation behind it. -/
theorem overlappingOperationsFault : Obligations.OverlappingOperationsFault :=
  fun _ _ hi hf hp => exec_overlap hi hf hp

/-- Settles O47: every meaning, and the step itself, begins with the liveness check. -/
theorem faultedCodecIsStuck : Obligations.FaultedCodecIsStuck := fun _ _ hf =>
  ⟨fun i => exec_faulted i hf, whenLive_faulted hf⟩

/-- Settles O52: launch is a RESET, which leaves the story of no window. -/
theorem resetMeetsTheInvariants : Obligations.ResetMeetsTheInvariants :=
  ⟨inv_reset, reset_eq_resetOp ▸ lastWindow_resetOp _⟩

end Sys2Proof.Proofs
end
